-- ==== Sys2Proof/Word.lean ====
section
/-! DEFINITION. The word types of the Keccak-f[1600] sponge engine, and the record of what exists
only while a permutation runs.

Widths are the spec's: a lane is 64 bits, the state is 200 bytes seen as 25 lanes
(spec/00_scope.md R6, spec/10_state.md R20), a command or response word is 32 bits
(spec/30_encoding.md R80, R92). Values are unsigned and bit 0 is the least significant bit (R9). -/

namespace Sys2Proof

/-- One byte: the unit in which the host moves data (R65). -/
abbrev Byte := BitVec 8

/-- One command word or the DATA field of a response (R80, R92). -/
abbrev Word := BitVec 32

/-- One 64-bit lane (R6, R14). -/
abbrev Lane := BitVec 64

/-- The state array S: exactly 200 bytes, never resized (R20). -/
abbrev StateBytes := Vector Byte 200

/-- The 25 lanes; lane `A[x, y]` stands at index `x + 5*y` (R61). -/
abbrev Lanes := Vector Lane 25

/-- The internal state of R40: it exists only while a permutation runs, no command can observe it,
and its values between commands are not defined. -/
structure PermScratch where
  /-- the LFSR register L (R110) -/
  lfsr : Byte
  /-- the round index i, 0..23 (R130) -/
  round : Fin 24
  /-- the ρπ step index t, 0..23 (R134) -/
  stepIx : Fin 24
  /-- the ρπ position, column x (R134) -/
  posX : Fin 5
  /-- the ρπ position, row y (R134) -/
  posY : Fin 5
  /-- the ρπ rotation accumulator r (R134) -/
  rotAcc : Nat
  /-- the lane the ρπ walk carries (R134) -/
  carried : Lane
  /-- the θ column parities C[0..4] (R132) -/
  parities : Vector Lane 5
  /-- the θ temporary D (R132) -/
  thetaD : Lane
  /-- the χ row temporaries T[0..4] (R138) -/
  rowTemps : Vector Lane 5
deriving DecidableEq, Repr, Inhabited

end Sys2Proof
end

