-- ==== Sys2Proof/Syntax.lean ====
section
/-! DEFINITION. The eleven commands of the KSE command set, edition 1: one constructor per row of
spec/opcode_table.json (spec/30_encoding.md R86), with the operand fields of R82 to R85. -/

namespace Sys2Proof

/-- A command. Operands are the unsigned fields of the command word as they stand (R85). -/
inductive Instr where
  /-- NOP, format N (R172) -/
  | nop
  /-- CFG_RC, format RC: RATEF and CAPF, in bits (R82, R173) -/
  | cfgRc (rate cap : BitVec 11)
  /-- CFG_SFX, format B: the domain-suffix byte (R83, R174) -/
  | cfgSfx (byte : Byte)
  /-- CFG_K256, format N (R175) -/
  | cfgK256
  /-- START, format N (R176) -/
  | start
  /-- ABSORB, format B: one input byte (R83, R177) -/
  | absorb (byte : Byte)
  /-- FINAL, format N (R178) -/
  | final
  /-- SQUEEZE, format N (R179) -/
  | squeeze
  /-- END, format N (R180) -/
  | endHash
  /-- STATUS, format S: the selector SEL (R84, R181) -/
  | status (sel : BitVec 2)
  /-- CLRERR, format N (R182) -/
  | clrErr
deriving DecidableEq, Repr

end Sys2Proof
end

