-- ==== Sys2Proof/WellFormed.lean ====
section
/-! DEFINITION. Which terms of `Instr` are commands of the engine. The field widths are in the types;
the one check left is that STATUS has no selector 3 (spec/30_encoding.md R84, R89). -/

namespace Sys2Proof

/-- The check of R86's last paragraph: STATUS needs `w[1:0] ≠ 3`; every other field value is a
command (CFG_RC's numeric checks are made when it runs, R173, not by the encoding). -/
def Instr.wellFormed : Instr → Bool
  | .nop => true
  | .cfgRc _ _ => true
  | .cfgSfx _ => true
  | .cfgK256 => true
  | .start => true
  | .absorb _ => true
  | .final => true
  | .squeeze => true
  | .endHash => true
  | .status sel => sel != 3#2
  | .clrErr => true

/-- `i` is one of the eleven commands of R86. -/
abbrev WellFormed (i : Instr) : Prop := i.wellFormed = true

end Sys2Proof
end

