-- ==== Sys2Proof/Decode.lean ====
section
/-! DEFINITION. From a command word to a command and back (spec/30_encoding.md).

`decode` is R91, total on all 2^32 words; it rejects by name (R87 to R89). `encode` is written from
the format tables R81 to R84. Every command is one 32-bit word (R80). -/

namespace Sys2Proof

/-- Why a word is Illegal. The engine reports all three as ILLEGAL (R231). -/
inductive Illegal where
  /-- OPC in 0xB..0xF (R87) -/
  | reservedOpcode
  /-- a 1 in the opcode's reserved-bit mask (R88) -/
  | reservedBits
  /-- STATUS with SEL = 3 (R89) -/
  | statusSelector
deriving DecidableEq, Repr

/-- `OPC = w[31:28]` (R80). -/
def opcOf (w : Word) : BitVec 4 := w.extractLsb' 28 4

/-- `RATEF = w[21:11]` (R82, R85). -/
def ratefOf (w : Word) : BitVec 11 := w.extractLsb' 11 11

/-- `CAPF = w[10:0]` (R82, R85). -/
def capfOf (w : Word) : BitVec 11 := w.extractLsb' 0 11

/-- `BYTE = w[7:0]` (R83, R85). -/
def byteOf (w : Word) : Byte := w.extractLsb' 0 8

/-- `SEL = w[1:0]` (R84, R85). -/
def selOf (w : Word) : BitVec 2 := w.extractLsb' 0 2

/-- RESMASK of R86: the bits of the word that must be zero, by opcode. A reserved opcode has no row;
`decode` rejects it before this mask is read. -/
def resMask (opc : BitVec 4) : Word :=
  match opc.toNat with
  | 0x0 => 0x0FFFFFFF#32
  | 0x1 => 0x0FC00000#32
  | 0x2 => 0x0FFFFF00#32
  | 0x3 => 0x0FFFFFFF#32
  | 0x4 => 0x0FFFFFFF#32
  | 0x5 => 0x0FFFFF00#32
  | 0x6 => 0x0FFFFFFF#32
  | 0x7 => 0x0FFFFFFF#32
  | 0x8 => 0x0FFFFFFF#32
  | 0x9 => 0x0FFFFFFC#32
  | 0xA => 0x0FFFFFFF#32
  | _ => 0xFFFFFFFF#32

/-- The decode function of R91. -/
def decode (w : Word) : Except Illegal Instr :=
  if 0xB ≤ (opcOf w).toNat then .error .reservedOpcode
  else if w &&& resMask (opcOf w) ≠ 0#32 then .error .reservedBits
  else
    match (opcOf w).toNat with
    | 0x0 => .ok .nop
    | 0x1 => .ok (.cfgRc (ratefOf w) (capfOf w))
    | 0x2 => .ok (.cfgSfx (byteOf w))
    | 0x3 => .ok .cfgK256
    | 0x4 => .ok .start
    | 0x5 => .ok (.absorb (byteOf w))
    | 0x6 => .ok .final
    | 0x7 => .ok .squeeze
    | 0x8 => .ok .endHash
    | 0x9 => if selOf w = 3#2 then .error .statusSelector else .ok (.status (selOf w))
    | 0xA => .ok .clrErr
    | _ => .error .reservedOpcode

/-- A field value placed at bit `lo` of a word. -/
def placed {n : Nat} (v : BitVec n) (lo : Nat) : Word := v.setWidth 32 <<< lo

/-- The word of a command: OPC at bit 28 and the operand fields at their places, all reserved bits 0
(R81 to R84, R86; R98 writes the same sum of shifted fields). -/
def encode : Instr → Word
  | .nop => placed 0x0#4 28
  | .cfgRc rate cap => placed 0x1#4 28 ||| placed rate 11 ||| placed cap 0
  | .cfgSfx byte => placed 0x2#4 28 ||| placed byte 0
  | .cfgK256 => placed 0x3#4 28
  | .start => placed 0x4#4 28
  | .absorb byte => placed 0x5#4 28 ||| placed byte 0
  | .final => placed 0x6#4 28
  | .squeeze => placed 0x7#4 28
  | .endHash => placed 0x8#4 28
  | .status sel => placed 0x9#4 28 ||| placed sel 0
  | .clrErr => placed 0xA#4 28

/-- The 32-bit word that the low `nbits` bits of `w` are, the bits above them zero. -/
def tableWord (nbits w : Nat) : Word := BitVec.ofNat 32 (w % 2 ^ nbits)

/-- The command the decoder reads from a word numbered as spec/opcode_table.json numbers it (bit 0
the least significant, as in R9). No command is longer than one 32-bit word (R80). -/
def decodeTableWord (nbits w : Nat) : Option Instr :=
  if 32 < nbits then none
  else
    match decode (tableWord nbits w) with
    | .ok i => some i
    | .error _ => none

end Sys2Proof
end

