-- ==== Sys2Proof/Config.lean ====
section
/-! DEFINITION. The open parameters of spec/00_scope.md R8 and the one free value of the model.

Every constant below is opaque and has no body, so no proof can learn its value: a claim holds
whatever it is, as R8 asks ("no rule of the spec depends on its value"). The model is untimed
(R270, spec/93_implementation_defined.md I5), so no definition reads the cycle counts; they stand
here because R8 makes them arguments of a model. -/

namespace Sys2Proof.Config

/-- Where round constants come from (R8, RC_SOURCE; R117). -/
inductive RcSource where
  | lfsr
  | table
deriving DecidableEq, Repr, Inhabited

/-- The level of the reset input that means "asserted" (R8, RESET_POLARITY). -/
inductive ResetPolarity where
  | activeHigh
  | activeLow
deriving DecidableEq, Repr, Inhabited

/-- N_PERM_CYCLES less one: the cycles of one permutation are any number at least 1 (R8). -/
opaque nPermCyclesLessOne : Nat

/-- N_PERM_CYCLES (R8): at least 1, otherwise open. -/
def nPermCycles : Nat := nPermCyclesLessOne + 1

/-- N_CMD_LATENCY less one, by opcode (R8). -/
opaque nCmdLatencyLessOne : BitVec 4 → Nat

/-- N_CMD_LATENCY by opcode (R8): at least 1, otherwise open. -/
def nCmdLatency (opc : BitVec 4) : Nat := nCmdLatencyLessOne opc + 1

/-- N_RESET_CYCLES (R8, R262): any number. -/
opaque nResetCycles : Nat

/-- N_INSTANCES less one (R8). -/
opaque nInstancesLessOne : Nat

/-- N_INSTANCES (R8, R75): how many engines a platform holds, at least 1. -/
def nInstances : Nat := nInstancesLessOne + 1

/-- RC_SOURCE (R8, R117): no host can tell the two values apart. -/
opaque rcSource : RcSource

/-- RESET_POLARITY (R8): the model's reset input says "asserted", whatever the level. -/
opaque resetPolarity : ResetPolarity

/-- BASE (R8, R68): the address a platform maps the command port at, if any. -/
opaque base : Option Nat

/-- PORT_BYTE_ORDER (R8, R64): the byte of a word that a byte-wise platform bus carries at each
place. The ports themselves are parallel and have no byte order. -/
opaque portByteOrder : Fin 4 → Fin 4

/-- FREE VALUE: what the internal state of R40 holds after the n-th permutation. Its values between
commands "are not defined" (R40; treatment "any value", spec/93_implementation_defined.md I4).
Log entry 2. Two engines that have run equally many permutations get one value: log entry 18. -/
opaque freeScratch : Nat → PermScratch

end Sys2Proof.Config
end

