-- ==== Sys2Proof/Machine/Lanes.lean ====
section
/-! DEFINITION. The state array seen as bytes and as lanes (spec/20_memory.md R61, R62), the accessors
of both views, and the lane operators of spec/00_scope.md R10. -/

namespace Sys2Proof.Machine

/-- `rotl64(a, n)`: rotation left by `n mod 64` positions (R10). -/
def rotl64 (a : Lane) (n : Nat) : Lane := a.rotateLeft (n % 64)

/-- The index `x + 5*y` of lane (x, y) (R61). -/
def laneIndex (x y : Fin 5) : Fin 25 := ⟨x.val + 5 * y.val, by omega⟩

/-- `laneOffset(x, y) = 8*(x + 5*y)`: the lane's first byte (R61). -/
def laneOffset (x y : Fin 5) : Nat := 8 * (x.val + 5 * y.val)

/-- `A[x, y]`. -/
def laneAt (A : Lanes) (x y : Fin 5) : Lane := A[laneIndex x y]

/-- `A[x, y] <- v`. -/
def setLane (A : Lanes) (x y : Fin 5) (v : Lane) : Lanes :=
  A.set (laneIndex x y).val v (laneIndex x y).isLt

/-- The 25 lanes whose lane (x, y) is `f x y`. -/
def buildLanes (f : Fin 5 → Fin 5 → Lane) : Lanes :=
  Vector.ofFn fun i : Fin 25 => f ⟨i.val % 5, by omega⟩ ⟨i.val / 5, by omega⟩

/-- `S[k]`. The state has the byte addresses 0..199 and no others (R60); every command that runs
keeps its cursors inside them (R34, R35), so the value beyond them is never used. -/
def byteAt (S : StateBytes) (k : Nat) : Byte := S[k]?.getD 0#8

/-- `S[k] <- S[k] ⊕ v`; an address beyond 199 is no byte of S. -/
def xorByte (S : StateBytes) (k : Nat) (v : Byte) : StateBytes :=
  S.setIfInBounds k (byteAt S k ^^^ v)

/-- The state of 200 zero bytes. -/
def zeroBytes : StateBytes := Vector.replicate 200 0#8

/-- The eight bytes of a lane, the first in bits 7..0 (R61: little-endian). -/
def laneFromBytes (S : StateBytes) (x y : Fin 5) : Lane :=
  byteAt S (laneOffset x y + 7) ++ byteAt S (laneOffset x y + 6) ++ byteAt S (laneOffset x y + 5)
    ++ byteAt S (laneOffset x y + 4) ++ byteAt S (laneOffset x y + 3)
    ++ byteAt S (laneOffset x y + 2) ++ byteAt S (laneOffset x y + 1) ++ byteAt S (laneOffset x y)

/-- The lane view of the bytes (R61; the first loop of R145). -/
def lanesOfBytes (S : StateBytes) : Lanes := buildLanes (laneFromBytes S)

/-- Byte `k` of the lanes: `A[x,y][8*i+7 : 8*i]` for `k = 8*(x+5*y) + i` (the last loop of R145). -/
def byteOfLanes (A : Lanes) (k : Fin 200) : Byte :=
  (A[k.val / 8]'(by omega)).extractLsb' (8 * (k.val % 8)) 8

/-- The byte view of the lanes (the last loop of R145). Irreducible, so that the 200 bytes are not
written out by accident; `byteAt_bytesOfLanes` reads one. -/
@[irreducible] def bytesOfLanes (A : Lanes) : StateBytes := Vector.ofFn (byteOfLanes A)

end Sys2Proof.Machine
end

