-- ==== Sys2Proof/Machine/Lfsr.lean ====
section
/-! DEFINITION. The round-constant generator (spec/40_round_constants.md). -/

namespace Sys2Proof.Machine

/-- The seed, loaded at the start of every permutation (R111). -/
def lfsrSeed : Byte := 0x01#8

/-- One call of the generator: the new register and the bit returned (R112). The bit is bit 1 of the
updated register (R113; spec/90_conflicts.md C1). -/
def lfsrStep (l : Byte) : Byte × Bool :=
  let shifted := l <<< 1
  let l' := if l.getLsbD 7 then shifted ^^^ 0x71#8 else shifted
  (l', l'.getLsbD 1)

/-- The register after `n` calls from `l`. -/
def lfsrAfter : Nat → Byte → Byte
  | 0, l => l
  | n + 1, l => lfsrAfter n (lfsrStep l).1

/-- The bit that call `k` returns, counted from 0 at the seed (R116). -/
def lfsrBit (k : Nat) : Bool := (lfsrStep (lfsrAfter k lfsrSeed)).2

/-- The bit position `2^j - 1` that generator bit j of a round goes to (R116). -/
def rcBitPos (j : Nat) : Nat := 2 ^ j - 1

/-- RC(i): the XOR over j in 0..6 of `bit(7i + j) << (2^j - 1)` (R117). -/
def roundConstant (i : Nat) : Lane :=
  (List.range 7).foldl
    (fun acc j => acc ^^^ (if lfsrBit (7 * i + j) then 1#64 <<< rcBitPos j else 0#64)) 0#64

/-- The table of R118. -/
def rcTable : List Lane :=
  [0x0000000000000001#64, 0x0000000000008082#64, 0x800000000000808A#64, 0x8000000080008000#64,
   0x000000000000808B#64, 0x0000000080000001#64, 0x8000000080008081#64, 0x8000000000008009#64] ++
  [0x000000000000008A#64, 0x0000000000000088#64, 0x0000000080008009#64, 0x000000008000000A#64,
   0x000000008000808B#64, 0x800000000000008B#64, 0x8000000000008089#64, 0x8000000000008003#64] ++
  [0x8000000000008002#64, 0x8000000000000080#64, 0x000000000000800A#64, 0x800000008000000A#64,
   0x8000000080008081#64, 0x8000000000008080#64, 0x0000000080000001#64, 0x8000000080008008#64]

end Sys2Proof.Machine
end

