-- ==== Sys2Proof/Machine/Permutation.lean ====
section
/-! DEFINITION. The permutation engine, Keccak-f[1600] (spec/41_permutation.md). Every step is the
function of its complete input that its pseudocode gives (R143). -/

namespace Sys2Proof.Machine

/-- `C[x]`: the parity of column x (R132). -/
def columnParity (A : Lanes) (x : Fin 5) : Lane :=
  laneAt A x 0 ^^^ laneAt A x 1 ^^^ laneAt A x 2 ^^^ laneAt A x 3 ^^^ laneAt A x 4

/-- All five parities, taken before any lane is written (R133). -/
def columnParities (A : Lanes) : Vector Lane 5 := Vector.ofFn (columnParity A)

/-- `D` for column x: `C[(x+4) mod 5] ⊕ rotl64(C[(x+1) mod 5], 1)` (R132); the sums are modulo 5. -/
def thetaD (C : Vector Lane 5) (x : Fin 5) : Lane := C[x + 4] ^^^ rotl64 C[x + 1] 1

/-- The θ step (R132, R133). -/
def theta (A : Lanes) : Lanes :=
  let C := columnParities A
  let D : Vector Lane 5 := Vector.ofFn (thetaD C)
  buildLanes fun x y => laneAt A x y ^^^ D[x]

/-- What the ρπ walk carries from step to step (R134). -/
structure WalkState where
  /-- A', written as the walk goes -/
  lanes : Lanes
  /-- the position -/
  x : Fin 5
  y : Fin 5
  /-- the lane carried -/
  current : Lane
  /-- the rotation accumulator, an unbounded natural number -/
  r : Nat

/-- Step t of the walk: r grows before the rotation (R134, R135; spec/90_conflicts.md C2), and the
lane at the new position is read before it is written. -/
def walkStep (w : WalkState) (t : Nat) : WalkState :=
  let r := w.r + (t + 1)
  let x := w.y
  let y := 2 * w.x + 3 * w.y
  { lanes := setLane w.lanes x y (rotl64 w.current (r % 64))
    x := x
    y := y
    current := laneAt w.lanes x y
    r := r }

/-- The fused ρ and π steps: 24 walk steps from lane (1, 0) (R134). -/
def rhoPi (A : Lanes) : Lanes :=
  ((List.range 24).foldl walkStep
    { lanes := A, x := 1, y := 0, current := laneAt A 1 0, r := 0 }).lanes

/-- The χ step, every row read before it is written (R138). -/
def chi (A : Lanes) : Lanes :=
  buildLanes fun x y => laneAt A x y ^^^ (~~~ laneAt A (x + 1) y &&& laneAt A (x + 2) y)

/-- One generator bit of ι (R139). -/
def iotaStep (a : Lanes × Byte) (j : Nat) : Lanes × Byte :=
  let out := lfsrStep a.2
  (if out.2 then setLane a.1 0 0 (laneAt a.1 0 0 ^^^ (1#64 <<< rcBitPos j)) else a.1, out.1)

/-- The ι step: seven generator bits into lane (0, 0) (R139, R140). -/
def iota (A : Lanes) (l : Byte) : Lanes × Byte := (List.range 7).foldl iotaStep (A, l)

/-- One round (R130, R131). -/
def keccakRound (a : Lanes × Byte) : Lanes × Byte := iota (chi (rhoPi (theta a.1))) a.2

/-- The 24 rounds on lanes, the register seeded first (R111, R130). Irreducible, so that no proof about
a command runs the rounds by accident; `keccakLanes_eq` unfolds it. -/
@[irreducible] def keccakLanes (A : Lanes) : Lanes :=
  ((List.range 24).foldl (fun a _ => keccakRound a) (A, lfsrSeed)).1

/-- KeccakF on the 200 bytes (R145). Irreducible, like `keccakLanes`; `keccakF_eq` unfolds it. -/
@[irreducible] def keccakF (S : StateBytes) : StateBytes := bytesOfLanes (keccakLanes (lanesOfBytes S))

/-- A round with its constant read from a table (R117, R139). -/
def tableRound (A : Lanes) (rc : Lane) : Lanes :=
  let A' := chi (rhoPi (theta A))
  setLane A' 0 0 (laneAt A' 0 0 ^^^ rc)

/-- The permutation by either source of round constants (R117; RC_SOURCE of R8). `keccakF` is the
`lfsr` case; R117 says the two are one function. -/
def keccakFWith (src : Config.RcSource) (S : StateBytes) : StateBytes :=
  match src with
  | .lfsr => keccakF S
  | .table => bytesOfLanes (rcTable.foldl tableRound (lanesOfBytes S))

/-- The ρ offset of the lane that arrives at (x, y), and the lane it comes from (the table of R136):
rows `(dst, src, off)` in walk order. -/
def rhoPiTable : List ((Fin 5 × Fin 5) × (Fin 5 × Fin 5) × Nat) :=
  [((0, 2), (1, 0), 1), ((2, 1), (0, 2), 3), ((1, 2), (2, 1), 6), ((2, 3), (1, 2), 10),
   ((3, 3), (2, 3), 15), ((3, 0), (3, 3), 21), ((0, 1), (3, 0), 28), ((1, 3), (0, 1), 36)] ++
  [((3, 1), (1, 3), 45), ((1, 4), (3, 1), 55), ((4, 4), (1, 4), 2), ((4, 0), (4, 4), 14),
   ((0, 3), (4, 0), 27), ((3, 4), (0, 3), 41), ((4, 3), (3, 4), 56), ((3, 2), (4, 3), 8)] ++
  [((2, 2), (3, 2), 25), ((2, 0), (2, 2), 43), ((0, 4), (2, 0), 62), ((4, 2), (0, 4), 18),
   ((2, 4), (4, 2), 39), ((4, 1), (2, 4), 61), ((1, 1), (4, 1), 20), ((1, 0), (1, 1), 44)]

end Sys2Proof.Machine
end

