-- ==== Sys2Proof/Machine/State.lean ====
section
/-! DEFINITION. The state of the engine (spec/10_state.md), what can stop it, and its state after
reset (R42, spec/70_reset_and_hazards.md R260). -/

namespace Sys2Proof.Machine

/-- PHASE (R33): the value 3 of its two bits "is never held", so it is no value of this type
(log entry 3). -/
inductive Phase where
  /-- 0, no hash in progress -/
  | idle
  /-- 1, taking input bytes -/
  | absorb
  /-- 2, giving output bytes -/
  | squeeze
deriving DecidableEq, Repr

/-- The codes of RCODE and ERRF (R231). Codes 4 to 7 are "reserved; never produced", so they are no
values of this type (log entry 3). -/
inductive ErrCode where
  /-- 0, no error -/
  | ok
  /-- 1, the word is illegal (R87 to R89) -/
  | illegal
  /-- 2, not legal in the current phase (R171) -/
  | seq
  /-- 3, a malformed configuration (R173) -/
  | cfg
deriving DecidableEq, Repr

/-- A response: RCODE and DATA (R92). -/
structure Response where
  code : ErrCode
  data : Word
deriving DecidableEq, Repr

/-- What the host drives at one rising clock edge (R264): the engine's input pins. That `rst` is
sampled at the edge with the other pins is DESIGN CHOICE (log entry 19):
spec/91_not_in_source.md N21 leaves the reset style open. -/
structure HostPins where
  /-- rst is asserted, whatever RESET_POLARITY makes of its level (log entries 13, 19) -/
  rst : Bool
  /-- the host offers a command word -/
  cmdValid : Bool
  /-- the command word offered -/
  cmdWord : Word
  /-- the host will take the response at this edge -/
  rspReady : Bool
deriving DecidableEq, Repr

/-- The state of the engine between two steps, with the host's coming moves beside it. -/
structure State where
  /-- S, the state array (R20) -/
  S : StateBytes
  /-- RATE, the rate in bits (R30) -/
  rate : BitVec 11
  /-- CAP, the capacity in bits (R31) -/
  cap : BitVec 11
  /-- SFX, the domain-suffix byte (R32) -/
  sfx : Byte
  /-- PHASE (R33) -/
  phase : Phase
  /-- B, the absorb cursor (R34) -/
  b : Byte
  /-- Q, the squeeze cursor (R35) -/
  q : Byte
  /-- ERRF, the sticky first-error code (R36) -/
  errf : ErrCode
  /-- the command in flight, as the response it waits to have taken (R41, R266): `rsp_valid`,
  `rsp_code` and `rsp_data`. At most one command is ever in flight (R265). -/
  response : Option Response
  /-- the internal state of R40; nothing reads it (log entry 2). Between permutations it
  holds its value: DESIGN CHOICE (log entry 20) -/
  scratch : PermScratch
  /-- the pins the host will drive at the coming edges, soonest first (R267; log entry 4). After
  the list ends the host drives nothing. -/
  host : List HostPins
  /-- THE MODEL'S OWN: the permutations run so far, the cost measure of R183 and R270, and the index
  of the next free value. No command reads it (log entry 5). -/
  permCount : Nat
deriving DecidableEq, Repr

/-- What stops the machine: a state that breaks an invariant of R37, which no run from reset reaches
("a model should treat it as a fault, not give it a meaning"; spec/93_implementation_defined.md
I10). Each is raised by `guardInv`, which every command passes, and each is safe: the model stops
where the spec gives no meaning. -/
inductive Fault where
  /-- RATE is not legal or RATE + CAP ≠ 1600 (R30, R31, R37). Raised by `guardInv`; safe. -/
  | illegalConfiguration
  /-- B or Q lies outside its range for the phase (R34, R35, R37). Raised by `guardInv`; safe. -/
  | cursorOutOfRange
  /-- PHASE = IDLE and S is not all zero (R37). Raised by `guardInv`; safe. -/
  | idleStateNotZero
deriving DecidableEq, Repr

/-- Why an instruction has no meaning in the model. -/
inductive Refusal where
  /-- Raised by an arm of `exec` for an instruction without a meaning yet; safe. No arm raises it:
  all eleven commands have their meaning. -/
  | notModelled (mnemonic : String)
deriving DecidableEq, Repr

/-- The outcome of a command or of one step. -/
abbrev Result := Host.Outcome State Fault Refusal

/-- The machine right after reset (R42, R260): the values of R42's table, no command in flight, and a
host that has not moved yet. `scratch` is unspecified there; its zeros are log entry 1. -/
def State.reset : State :=
  { S := Vector.replicate 200 0#8
    rate := 1088#11
    cap := 512#11
    sfx := 0x01#8
    phase := .idle
    b := 0#8
    q := 0#8
    errf := .ok
    response := none
    scratch :=
      { lfsr := 0#8, round := 0, stepIx := 0, posX := 0, posY := 0, rotAcc := 0, carried := 0#64
        parities := Vector.replicate 5 0#64, thetaD := 0#64, rowTemps := Vector.replicate 5 0#64 }
    host := []
    permCount := 0 }

end Sys2Proof.Machine
end

