-- ==== Sys2Proof/Machine/Ops.lean ====
section
/-! DEFINITION. The named operations over the state that the commands share: the invariants of R37,
the accesses to S, the permutation as a command runs it, and the two ways a command ends
(R170: `respond` and `fail`). There is no trap, no handler and no return from one (R238, R239):
`fail` is the whole of the engine's error reporting. -/

namespace Sys2Proof.Machine

/-- `R = RATE/8`, the rate in bytes (R7, R11). -/
def State.blockBytes (s : State) : Nat := s.rate.toNat / 8

/-- RATE is legal and RATE + CAP = 1600 (R30, R31). -/
def State.configLegal (s : State) : Bool :=
  8 ≤ s.rate.toNat && s.rate.toNat % 8 == 0 && s.rate.toNat + s.cap.toNat == 1600

/-- B and Q are in range for the phase (R34, R35, R37). -/
def State.cursorsInRange (s : State) : Bool :=
  match s.phase with
  | .idle => s.b.toNat == 0 && s.q.toNat == 0
  | .absorb => s.b.toNat < s.blockBytes && s.q.toNat == 0
  | .squeeze => s.b.toNat == 0 && s.q.toNat ≤ s.blockBytes

/-- In IDLE all 200 bytes of S are zero (R37). -/
def State.idleIsZero (s : State) : Bool :=
  match s.phase with
  | .idle => s.S.toList.all (· == 0#8)
  | .absorb => true
  | .squeeze => true

/-- The invariant of R37 that the state breaks, if any. -/
def State.broken (s : State) : Option Fault :=
  if !s.configLegal then some .illegalConfiguration
  else if !s.cursorsInRange then some .cursorOutOfRange
  else if !s.idleIsZero then some .idleStateNotZero
  else none

/-- The state meets every invariant of R37. -/
abbrev State.Inv (s : State) : Prop := s.broken = none

/-- A state that breaks an invariant is a fault and gets no meaning (R37; I10). -/
def guardInv (s : State) (k : Result) : Result :=
  match s.broken with
  | some f => .fault f
  | none => k

/-- `S[k]`. -/
def State.readS (s : State) (k : Nat) : Byte := byteAt s.S k

/-- `S[k] <- S[k] ⊕ v`. -/
def State.xorS (s : State) (k : Nat) (v : Byte) : State := { s with S := xorByte s.S k v }

/-- `for k in [0, 200): S[k] <- 0x00`. -/
def State.zeroS (s : State) : State := { s with S := zeroBytes }

/-- `permute()`: `S <- KeccakF(S)` (R12, R145). The internal state of R40 is left undefined: it takes
a free value, at the index that `permCount` gives (log entry 2). DESIGN CHOICE (log entry 18): with that
index alone the value is the same, though unknown, for two states with equal `permCount`, be they of two
engines (R75) or of two runs; the spec ties no such values together. -/
def State.permute (s : State) : State :=
  { s with
    S := keccakF s.S
    scratch := Config.freeScratch s.permCount
    permCount := s.permCount + 1 }

/-- The sticky first error: ERRF takes `code` only while it is 0 (R235). -/
def State.recordError (s : State) (code : ErrCode) : State :=
  match s.errf with
  | .ok => { s with errf := code }
  | .illegal => s
  | .seq => s
  | .cfg => s

/-- Offer the response (code, data); the command is then in flight until the host takes it
(R41, R92, R266). -/
def State.offer (s : State) (code : ErrCode) (data : Word) : State :=
  { s with response := some { code := code, data := data } }

/-- `respond(OK, data)` (R12, R170): the command ends with every write done. Like `fail` it leaves the
internal state of R40 as it is, so a command that does not permute holds it: DESIGN CHOICE (log
entry 20). -/
def respond (data : Word) (s : State) : Result := .next (s.offer .ok data)

/-- `fail(code)` (R170, R234): nothing is written but ERRF, and the response is (code, 0).
That the internal state of R40 holds still too is DESIGN CHOICE (log entry 20). -/
def fail (code : ErrCode) (s : State) : Result := .next ((s.recordError code).offer code 0#32)

end Sys2Proof.Machine
end

