-- ==== Sys2Proof/Machine/Operands.lean ====
section
/-! DEFINITION. What a command reads and where it reaches S. No command names a register or an address:
the operand fields of the word are taken as they stand (R85; `Decode.lean`), and S is reached only
through the cursors B and Q and the rate (R24, R60). -/

namespace Sys2Proof.Machine

/-- `zext_32` of a byte (R12). -/
def zext32 (v : Byte) : Word := v.setWidth 32

/-- Where ABSORB and FINAL's suffix go: the absorb cursor B (R34, R177, R178). -/
def State.absorbOffset (s : State) : Nat := s.b.toNat

/-- Where FINAL's 0x80 goes: `R - 1` (R178). -/
def State.lastRateOffset (s : State) : Nat := s.blockBytes - 1

/-- What SQUEEZE reads: the squeeze cursor Q (R35, R179). -/
def State.squeezeOffset (s : State) : Nat := s.q.toNat

/-- `B = R`: the block is full (R177). -/
def State.blockFull (s : State) : Bool := s.b.toNat == s.blockBytes

/-- `Q = R`: the block has been read out (R179). -/
def State.blockReadOut (s : State) : Bool := s.q.toNat == s.blockBytes

/-- `SFX[7] = 1 and B = R - 1`: FINAL's special case (R178, R188). -/
def State.padSpecialCase (s : State) : Bool :=
  s.sfx.getLsbD 7 && s.b.toNat == s.lastRateOffset

end Sys2Proof.Machine
end

