-- ==== Sys2Proof/Machine/Flags.lean ====
section
/-! DEFINITION. The engine's status (R39: PHASE, ERRF and RCODE; there are no condition codes): the
codes, the phase check, CFG_RC's check and the STATUS words. -/

namespace Sys2Proof.Machine

/-- The two bits of PHASE (R33). -/
def Phase.code : Phase → BitVec 2
  | .idle => 0#2
  | .absorb => 1#2
  | .squeeze => 2#2

/-- The three bits of RCODE and ERRF (R231). -/
def ErrCode.code : ErrCode → BitVec 3
  | .ok => 0#3
  | .illegal => 1#3
  | .seq => 2#3
  | .cfg => 3#3

/-- The phases in which a command is legal (the table of R171). -/
def legalIn : Instr → Phase → Bool
  | .nop, _ => true
  | .cfgRc _ _, p => p == .idle
  | .cfgSfx _, p => p == .idle
  | .cfgK256, p => p == .idle
  | .start, _ => true
  | .absorb _, p => p == .absorb
  | .final, p => p == .absorb
  | .squeeze, p => p == .squeeze
  | .endHash, _ => true
  | .status _, _ => true
  | .clrErr, _ => true

/-- CFG_RC's check; the sum is exact and does not wrap (R173). -/
def configAccepted (rate cap : BitVec 11) : Bool :=
  !(rate.toNat == 0 || rate.toNat % 8 != 0 || rate.toNat + cap.toNat != 1600)

/-- The status word of SEL = 0 (R93, in the form of R181). -/
def State.statusPhase (s : State) : Word :=
  s.q.setWidth 32 <<< 16 ||| s.b.setWidth 32 <<< 8 ||| s.errf.code.setWidth 32 <<< 4
    ||| s.phase.code.setWidth 32

/-- The status word of SEL = 1 (R94, in the form of R181). -/
def State.statusConfig (s : State) : Word := s.cap.setWidth 32 <<< 16 ||| s.rate.setWidth 32

/-- The status word of SEL = 2 (R95). -/
def State.statusSuffix (s : State) : Word := zext32 s.sfx

/-- How every decoded command runs (R170): a broken state is a fault (R37), then the phase check
fails with SEQ (R171), then the command's own pseudocode runs. -/
def command (i : Instr) (s : State) (body : State → Result) : Result :=
  guardInv s (if legalIn i s.phase then body s else fail .seq s)

end Sys2Proof.Machine
end

