-- ==== Sys2Proof/Machine/Configure.lean ====
section
/-! DEFINITION. The configuration commands, legal only in IDLE (spec/42_sponge_commands.md R173 to
R175). -/

namespace Sys2Proof.Machine

/-- CFG_RC: set rate and capacity, or fail CFG and keep the old ones (R173). -/
def execCfgRc (rate cap : BitVec 11) (s : State) : Result :=
  command (.cfgRc rate cap) s fun s =>
    if configAccepted rate cap then respond 0#32 { s with rate := rate, cap := cap }
    else fail .cfg s

/-- CFG_SFX: set the domain-suffix byte; no value is rejected (R174). -/
def execCfgSfx (byte : Byte) (s : State) : Result :=
  command (.cfgSfx byte) s fun s => respond 0#32 { s with sfx := byte }

/-- CFG_K256: load the Keccak-256 profile (R175). -/
def execCfgK256 (s : State) : Result :=
  command .cfgK256 s fun s =>
    respond 0#32 { s with rate := 1088#11, cap := 512#11, sfx := 0x01#8 }

end Sys2Proof.Machine
end

