-- ==== Sys2Proof/Machine/Control.lean ====
section
/-! DEFINITION. NOP, STATUS and CLRERR, legal in every phase (spec/42_sponge_commands.md R172, R181,
R182). -/

namespace Sys2Proof.Machine

/-- NOP: nothing but its response (R172). -/
def execNop (s : State) : Result := command .nop s fun s => respond 0#32 s

/-- STATUS: the selected status word (R181). SEL = 3 is no command and ends with ILLEGAL (R89); the
decoder never gives it. -/
def execStatus (sel : BitVec 2) (s : State) : Result :=
  command (.status sel) s fun s =>
    match sel.toNat with
    | 0 => respond s.statusPhase s
    | 1 => respond s.statusConfig s
    | 2 => respond s.statusSuffix s
    | _ => fail .illegal s

/-- CLRERR: clear the sticky error (R182). -/
def execClrErr (s : State) : Result := command .clrErr s fun s => respond 0#32 { s with errf := .ok }

end Sys2Proof.Machine
end

