-- ==== Sys2Proof/Machine/Sponge.lean ====
section
/-! DEFINITION. The commands that run a hash: START, ABSORB, FINAL, SQUEEZE and END
(spec/42_sponge_commands.md R176 to R180). -/

namespace Sys2Proof.Machine

/-- START: begin a hash computation, abandoning any in progress (R176). -/
def execStart (s : State) : Result :=
  command .start s fun s => respond 0#32 { s.zeroS with b := 0#8, q := 0#8, phase := .absorb }

/-- ABSORB: XOR one input byte at B, and permute when the block is full (R177). -/
def execAbsorb (byte : Byte) (s : State) : Result :=
  command (.absorb byte) s fun s =>
    let s1 := s.xorS s.absorbOffset byte
    let s2 := { s1 with b := s1.b + 1#8 }
    respond 0#32 (if s2.blockFull then { s2.permute with b := 0#8 } else s2)

/-- FINAL: pad and switch to squeezing, with one permutation or, in the special case, two (R178). -/
def execFinal (s : State) : Result :=
  command .final s fun s =>
    let s1 := s.xorS s.absorbOffset s.sfx
    let s2 := if s1.padSpecialCase then s1.permute else s1
    let s3 := (s2.xorS s2.lastRateOffset 0x80#8).permute
    respond 0#32 { s3 with b := 0#8, q := 0#8, phase := .squeeze }

/-- SQUEEZE: read one output byte, permuting first when the block has been read out (R179). -/
def execSqueeze (s : State) : Result :=
  command .squeeze s fun s =>
    let s1 := if s.blockReadOut then { s.permute with q := 0#8 } else s
    respond (zext32 (s1.readS s1.squeezeOffset)) { s1 with q := s1.q + 1#8 }

/-- END: discard the computation and zero the state (R180). -/
def execEndHash (s : State) : Result :=
  command .endHash s fun s => respond 0#32 { s.zeroS with b := 0#8, q := 0#8, phase := .idle }

end Sys2Proof.Machine
end

