-- ==== Sys2Proof/Machine/Dispatch.lean ====
section
/-! DEFINITION. From a command to its meaning, one arm per constructor of `Instr`. -/

namespace Sys2Proof.Machine

/-- The meaning of a decoded command (spec/42_sponge_commands.md R170). -/
def exec (i : Instr) (s : State) : Host.Outcome State Fault Refusal :=
  match i with
  | .nop => Sys2Proof.Machine.execNop s
  | .cfgRc rate cap => Sys2Proof.Machine.execCfgRc rate cap s
  | .cfgSfx byte => Sys2Proof.Machine.execCfgSfx byte s
  | .cfgK256 => Sys2Proof.Machine.execCfgK256 s
  | .start => Sys2Proof.Machine.execStart s
  | .absorb byte => Sys2Proof.Machine.execAbsorb byte s
  | .final => Sys2Proof.Machine.execFinal s
  | .squeeze => Sys2Proof.Machine.execSqueeze s
  | .endHash => Sys2Proof.Machine.execEndHash s
  | .status sel => Sys2Proof.Machine.execStatus sel s
  | .clrErr => Sys2Proof.Machine.execClrErr s

end Sys2Proof.Machine
end

