-- ==== Sys2Proof/Machine/Execute.lean ====
section
/-! DEFINITION. `Execute(w)` of R170: what the engine does with an accepted command word. -/

namespace Sys2Proof.Machine

/-- Decode, and run the command or fail with ILLEGAL (R87 to R91, R170). -/
def execute (w : Word) (s : State) : Result :=
  match decode w with
  | .ok i => exec i s
  | .error _ => guardInv s (fail .illegal s)

end Sys2Proof.Machine
end

