-- ==== Sys2Proof/Machine/Ports.lean ====
section
/-! DEFINITION. The command and response ports and their handshakes (spec/70_reset_and_hazards.md
R261, R264 to R267). One element of `State.host` is what the host drives at one rising clock edge, `rst`
among the rest (log entry 19).
The edges at which the engine is still working on a command, or not yet ready after reset, transfer
nothing and are left out: the model is untimed (R15, R270; log entry 4). -/

namespace Sys2Proof.Machine

/-- A host that drives nothing: the pins once `State.host` is used up. -/
def HostPins.quiet : HostPins := { rst := false, cmdValid := false, cmdWord := 0#32, rspReady := false }

/-- The host offers a command word and takes no response. -/
def HostPins.offer (w : Word) : HostPins :=
  { rst := false, cmdValid := true, cmdWord := w, rspReady := false }

/-- The host takes a response and offers no command. -/
def HostPins.take : HostPins := { rst := false, cmdValid := false, cmdWord := 0#32, rspReady := true }

/-- The pins at the next edge. -/
def State.pins (s : State) : HostPins := s.host.headD HostPins.quiet

/-- The host's moves once the next edge has passed. -/
def State.passEdge (s : State) : State := { s with host := s.host.tail }

/-- `cmd_ready` (R265): low while a command is in flight and during reset (R42). -/
def State.cmdReady (s : State) (p : HostPins) : Bool := !p.rst && s.response.isNone

/-- `rsp_valid` (R266): low during reset (R42). -/
def State.rspValid (s : State) (p : HostPins) : Bool := !p.rst && s.response.isSome

/-- `rsp_code` and `rsp_data`: the response on the port, while `rsp_valid` is high (R264, R266). -/
def State.rspPort (s : State) (p : HostPins) : Option Response :=
  if s.rspValid p then s.response else none

/-- A command transfers where `cmd_valid = 1` and `cmd_ready = 1` (R265). -/
def State.cmdTransfers (s : State) (p : HostPins) : Bool := p.cmdValid && s.cmdReady p

/-- A response transfers where `rsp_valid = 1` and `rsp_ready = 1` (R266). -/
def State.rspTransfers (s : State) (p : HostPins) : Bool := p.rspReady && s.rspValid p

/-- An edge with reset asserted (R260, R261): every piece of state takes its reset value, the command
in flight and its response are lost, and the state before does not matter. The host's later moves
and the model's own count are no state of the engine. -/
def State.resetEdge (s : State) : State :=
  { State.reset with host := s.host.tail, permCount := s.permCount }

/-- An edge at which no command transfers: the host takes the response offered, or the engine waits
and keeps all its state (R245, R266). That the internal state of R40 is among what holds still here is
DESIGN CHOICE (log entry 20). -/
def quietEdge (s : State) : Result :=
  guardInv s (.next (if s.rspTransfers s.pins then { s.passEdge with response := none }
    else s.passEdge))

end Sys2Proof.Machine
end

