-- ==== Sys2Proof/Machine/Step.lean ====
section
/-! DEFINITION. One step: one edge at which the engine can do something (R15, R265 to R267). A step that
takes a command word runs the whole command (R65: "Each command is one atomic action"). -/

namespace Sys2Proof.Machine

/-- One edge of the host and the engine: reset wins, then a command that transfers runs, else the
response transfers or nothing does. -/
def step (s : State) : Host.Outcome State Fault Refusal :=
  if s.pins.rst then .next s.resetEdge
  else if s.cmdTransfers s.pins then execute s.pins.cmdWord s.passEdge
  else quietEdge s

/-- `s` with the host about to offer the command word (numbered as spec/opcode_table.json numbers it),
and no response in the way of it (log entry 6). -/
def State.withFetchWord (s : State) (nbits w : Nat) : State :=
  { s with host := HostPins.offer (tableWord nbits w) :: s.host, response := none }

end Sys2Proof.Machine
end

