-- ==== Sys2Proof/Machine/Transaction.lean ====
section
/-! DEFINITION. The host's side: issuing a command and taking its response, and the hash transactions of
spec/42_sponge_commands.md R185 and R187. -/

namespace Sys2Proof.Machine

/-- The host issues `w` and then takes the response (R267): the response, and the engine's state once
it has been taken. `none` where the engine does not answer. -/
def transact (w : Word) (s : State) : Option (Response × State) :=
  match step { s with host := [HostPins.offer w, HostPins.take] } with
  | .next t =>
    match t.rspPort t.pins, step t with
    | some r, .next u => some (r, u)
    | _, _ => none
  | .fault _ => none
  | .refused _ => none

/-- Commands issued one after another, each response taken before the next command: the responses in
command order (R92), and the state at the end. -/
def transactAll : List Word → State → Option (List Response × State)
  | [], s => some ([], s)
  | w :: ws, s =>
    match transact w s with
    | none => none
    | some (r, t) =>
      match transactAll ws t with
      | none => none
      | some (rs, u) => some (r :: rs, u)

/-- `ABSORBS b0, b1, …` (R97). -/
def absorbs (M : List Byte) : List Instr := M.map .absorb

/-- `SQUEEZEN n` (R97). -/
def squeezeN (n : Nat) : List Instr := List.replicate n .squeeze

/-- `HASH rate, cap, sfx, bytes, n`: the hash transaction (R97, R185). -/
def hashCommands (rate cap : BitVec 11) (sfx : Byte) (M : List Byte) (n : Nat) : List Instr :=
  [.endHash, .cfgRc rate cap, .cfgSfx sfx, .start] ++ absorbs M ++ [.final] ++ squeezeN n

/-- `KECCAK256 bytes` (R97, R187). -/
def keccak256Commands (M : List Byte) : List Instr :=
  [.endHash, .cfgK256, .start] ++ absorbs M ++ [.final] ++ squeezeN 32

/-- The output of a transaction whose last `n` commands are the SQUEEZEs: their DATA[7:0], in order
(R185). -/
def outputBytes (n : Nat) (rs : List Response) : List Byte :=
  (rs.drop (rs.length - n)).map fun r => r.data.setWidth 8

/-- The permutations a command runs from `s`, where it is legal (R183). -/
def permutationsOf (i : Instr) (s : State) : Nat :=
  match i with
  | .nop => 0
  | .cfgRc _ _ => 0
  | .cfgSfx _ => 0
  | .cfgK256 => 0
  | .start => 0
  | .absorb _ => if s.b.toNat + 1 = s.blockBytes then 1 else 0
  | .final => if s.sfx.getLsbD 7 = true ∧ s.b.toNat + 1 = s.blockBytes then 2 else 1
  | .squeeze => if s.q.toNat = s.blockBytes then 1 else 0
  | .endHash => 0
  | .status _ => 0
  | .clrErr => 0

end Sys2Proof.Machine
end

