-- ==== Sys2Proof/Machine/Assembler.lean ====
section
/-! DEFINITION. The assembler of spec/30_encoding.md R96 and R97: a line of text to the commands it
stands for, or an assembly error (`none`). "The engine sees only the expanded words." Text is a list
of characters. The points of the text that R96 and R97 leave open are DESIGN CHOICE (log entry 7): white
space, quotes, and how an empty `<bytes>` is written. -/

namespace Sys2Proof.Machine.Asm

/-- The eleven mnemonics of R86 and the four pseudo-instructions of R97. -/
inductive Mnemonic where
  | nop | cfgRc | cfgSfx | cfgK256 | start | absorb | final | squeeze | endHash | status | clrErr
  | absorbs | squeezeN | hash | keccak256
deriving DecidableEq, Repr

/-- An operand: a number, or a quoted text as its bytes (R96, R97). -/
inductive Operand where
  | num (n : Nat)
  | text (bytes : List Byte)
deriving DecidableEq, Repr

/-- Upper-case spellings (R96). -/
def mnemonicTable : List (List Char × Mnemonic) :=
  [(['N', 'O', 'P'], .nop),
   (['C', 'F', 'G', '_', 'R', 'C'], .cfgRc),
   (['C', 'F', 'G', '_', 'S', 'F', 'X'], .cfgSfx),
   (['C', 'F', 'G', '_', 'K', '2', '5', '6'], .cfgK256),
   (['S', 'T', 'A', 'R', 'T'], .start),
   (['A', 'B', 'S', 'O', 'R', 'B'], .absorb),
   (['F', 'I', 'N', 'A', 'L'], .final),
   (['S', 'Q', 'U', 'E', 'E', 'Z', 'E'], .squeeze)] ++
  [(['E', 'N', 'D'], .endHash),
   (['S', 'T', 'A', 'T', 'U', 'S'], .status),
   (['C', 'L', 'R', 'E', 'R', 'R'], .clrErr),
   (['A', 'B', 'S', 'O', 'R', 'B', 'S'], .absorbs),
   (['S', 'Q', 'U', 'E', 'E', 'Z', 'E', 'N'], .squeezeN),
   (['H', 'A', 'S', 'H'], .hash),
   (['K', 'E', 'C', 'C', 'A', 'K', '2', '5', '6'], .keccak256)]

/-- The mnemonic a word spells. -/
def mnemonicOf (cs : List Char) : Option Mnemonic :=
  (mnemonicTable.find? fun row => row.1 == cs).map (·.2)

/-- The value of a digit in base 16, either case. -/
def digitValue (c : Char) : Option Nat :=
  let n := c.toNat
  if 48 ≤ n ∧ n ≤ 57 then some (n - 48)
  else if 65 ≤ n ∧ n ≤ 70 then some (n - 55)
  else if 97 ≤ n ∧ n ≤ 102 then some (n - 87)
  else none

/-- Digits in a base, most significant first, on top of `acc`. -/
def digits (base : Nat) : List Char → Nat → Option Nat
  | [], acc => some acc
  | c :: cs, acc =>
    match digitValue c with
    | some d => if d < base then digits base cs (acc * base + d) else none
    | none => none

/-- A number: decimal, or hexadecimal with a `0x` prefix (R96). -/
def number : List Char → Option Nat
  | [] => none
  | ['0', 'x'] => none
  | '0' :: 'x' :: cs => digits 16 cs 0
  | cs => digits 10 cs 0

/-- White space. -/
def isBlank (c : Char) : Bool := c == ' ' || c == '\t'

/-- Drop white space at both ends. -/
def trim (cs : List Char) : List Char :=
  ((cs.dropWhile isBlank).reverse.dropWhile isBlank).reverse

/-- The code unit of an ASCII character. -/
def asciiByte (c : Char) : Option Byte := if c.toNat < 128 then some (BitVec.ofNat 8 c.toNat) else none

/-- The bytes of a text of ASCII characters, no terminating zero (R97). -/
def asciiBytes : List Char → Option (List Byte)
  | [] => some []
  | c :: cs =>
    match asciiByte c, asciiBytes cs with
    | some b, some bs => some (b :: bs)
    | _, _ => none

/-- What stands before the comment: `;` outside quotes starts one (R96). -/
def uncomment : Bool → List Char → List Char
  | _, [] => []
  | quoted, c :: cs =>
    if c == ';' && !quoted then []
    else c :: uncomment (if c == '"' then !quoted else quoted) cs

/-- Split at the commas outside quotes. -/
def splitCommas : Bool → List Char → List Char → List (List Char)
  | _, cur, [] => [cur.reverse]
  | quoted, cur, c :: cs =>
    if c == ',' && !quoted then cur.reverse :: splitCommas quoted [] cs
    else splitCommas (if c == '"' then !quoted else quoted) (c :: cur) cs

/-- A quoted text, without its quotes. -/
def quotedText (cs : List Char) : Option (List Char) :=
  match cs, cs.reverse with
  | '"' :: body, '"' :: _ => if 2 ≤ cs.length then some (body.take (cs.length - 2)) else none
  | _, _ => none

/-- One operand. R97 gives no escape for a quote inside a quoted text and does not forbid one: here it is
an assembly error (DESIGN CHOICE, log entry 7). -/
def operand (cs : List Char) : Option Operand :=
  match quotedText cs with
  | some body => if body.contains '"' then none else (asciiBytes body).map .text
  | none => (number cs).map .num

/-- All operands, or an error in one of them. -/
def operands : List (List Char) → Option (List Operand)
  | [] => some []
  | cs :: rest =>
    match operand (trim cs), operands rest with
    | some o, some os => some (o :: os)
    | _, _ => none

/-- The bytes that data operands stand for: each number 0..255, each text its bytes (R97). -/
def dataBytes : List Operand → Option (List Byte)
  | [] => some []
  | .num n :: os =>
    match dataBytes os with
    | some bs => if n < 256 then some (BitVec.ofNat 8 n :: bs) else none
    | none => none
  | .text t :: os => (dataBytes os).map (t ++ ·)

/-- The commands of one mnemonic and its operands, every operand in its range (R96, R97). How an empty
`<bytes>` is written is DESIGN CHOICE (log entry 7): HASH with the four operands rate, cap, sfx and n,
and KECCAK256 and ABSORBS with no operand, have no bytes; so has the empty text `""`. An empty field
between two commas is no operand, and an assembly error. -/
def expand (m : Mnemonic) (ops : List Operand) : Option (List Instr) :=
  match m, ops with
  | .nop, [] => some [.nop]
  | .cfgRc, [.num r, .num c] =>
    if r < 2048 ∧ c < 2048 then some [.cfgRc (BitVec.ofNat 11 r) (BitVec.ofNat 11 c)] else none
  | .cfgSfx, [.num v] => if v < 256 then some [.cfgSfx (BitVec.ofNat 8 v)] else none
  | .cfgK256, [] => some [.cfgK256]
  | .start, [] => some [.start]
  | .absorb, [.num v] => if v < 256 then some [.absorb (BitVec.ofNat 8 v)] else none
  | .final, [] => some [.final]
  | .squeeze, [] => some [.squeeze]
  | .endHash, [] => some [.endHash]
  | .status, [.num v] => if v < 3 then some [.status (BitVec.ofNat 2 v)] else none
  | .clrErr, [] => some [.clrErr]
  | .absorbs, os => (dataBytes os).map absorbs
  | .squeezeN, [.num n] => some (squeezeN n)
  | .hash, .num r :: .num c :: .num v :: os =>
    match os.getLast?, dataBytes os.dropLast with
    | some (.num n), some M =>
      if r < 2048 ∧ c < 2048 ∧ v < 256 then
        some (hashCommands (BitVec.ofNat 11 r) (BitVec.ofNat 11 c) (BitVec.ofNat 8 v) M n)
      else none
    | _, _ => none
  | .keccak256, os => (dataBytes os).map keccak256Commands
  | _, _ => none

/-- One line: at most one mnemonic with its operands, then perhaps a comment (R96). A line without a
mnemonic stands for nothing. -/
def line (cs : List Char) : Option (List Instr) :=
  let body := trim (uncomment false cs)
  if body.isEmpty then some []
  else
    let rest := trim (body.dropWhile fun c => !isBlank c)
    match mnemonicOf (body.takeWhile fun c => !isBlank c),
        (if rest.isEmpty then some [] else operands (splitCommas false [] rest)) with
    | some m, some os => expand m os
    | _, _ => none

/-- The words of a line. -/
def assemble (cs : List Char) : Option (List Word) := (line cs).map (·.map encode)

end Sys2Proof.Machine.Asm
end

