-- ==== Sys2Proof/Machine/Platform.lean ====
section
/-! DEFINITION. A platform of several engines (spec/20_memory.md R75, spec/60_exceptions.md R243):
each has its own state, and no command of one affects another. The free values of `State.scratch` are
tied between engines that have run equally many permutations (log entry 18); no command reads them. -/

namespace Sys2Proof.Machine

/-- The engines of a platform, by number. -/
structure Platform where
  engines : List State
deriving DecidableEq, Repr

/-- A platform holds N_INSTANCES engines (R8). -/
def Platform.WellSized (p : Platform) : Prop := p.engines.length = Config.nInstances

/-- One step of engine `k`; a platform without such an engine does not move. -/
def Platform.stepEngine (p : Platform) (k : Nat) : Host.Outcome Platform Fault Refusal :=
  match p.engines[k]? with
  | none => .next p
  | some s =>
    match step s with
    | .next t => .next { engines := p.engines.set k t }
    | .fault f => .fault f
    | .refused r => .refused r

end Sys2Proof.Machine
end

