-- ==== Sys2Proof/Machine/Reference.lean ====
section
/-! DEFINITION. SpongeRef: the source's construction as a function, "the normative meaning of 'the hash
of M'" (spec/42_sponge_commands.md R184). The loops of R184 run over a fuel that bounds them: each
turn takes at least one byte, so the message's length and the output length are enough. -/

namespace Sys2Proof.Machine

/-- `for k in [0, n): S[k0 + k] <- S[k0 + k] ⊕ M[k]`. -/
def xorBytesAt : Nat → List Byte → StateBytes → StateBytes
  | _, [], S => S
  | k, m :: ms, S => xorBytesAt (k + 1) ms (xorByte S k m)

/-- The absorption loop of R184: the state and the offset `b` after the message. -/
def refAbsorb (R : Nat) : Nat → List Byte → StateBytes × Nat → StateBytes × Nat
  | 0, _, p => p
  | fuel + 1, M, p =>
    if M.isEmpty then p
    else
      let n := min M.length R
      let S := xorBytesAt 0 (M.take n) p.1
      refAbsorb R fuel (M.drop n) (if n = R then (keccakF S, 0) else (S, n))

/-- The padding of R184. -/
def refPad (R : Nat) (sfx : Byte) (p : StateBytes × Nat) : StateBytes :=
  let S1 := xorByte p.1 p.2 sfx
  let S2 := if sfx.getLsbD 7 && p.2 == R - 1 then keccakF S1 else S1
  keccakF (xorByte S2 (R - 1) 0x80#8)

/-- The squeezing loop of R184. -/
def refSqueeze (R : Nat) : Nat → Nat → StateBytes → List Byte
  | 0, _, _ => []
  | fuel + 1, rem, S =>
    if rem = 0 then []
    else
      let n := min rem R
      S.toList.take n ++ refSqueeze R fuel (rem - n) (if 0 < rem - n then keccakF S else S)

/-- SpongeRef(r, c, M, sfx, L) (R184). Its precondition is `r + c = 1600`, `r mod 8 = 0`, `r ≥ 8`. -/
def spongeRef (r _c : Nat) (M : List Byte) (sfx : Byte) (L : Nat) : List Byte :=
  let R := r / 8
  refSqueeze R L L (refPad R sfx (refAbsorb R M.length M (zeroBytes, 0)))

end Sys2Proof.Machine
end

