-- ==== Sys2Proof/Safety.lean ====
section
/-! DEFINITION. What claims call a safe state and a safe run. The engine has no error that stops it
(spec/60_exceptions.md R230): the only way the model stops is a state that breaks an invariant of
spec/10_state.md R37, so a run is safe when it never meets one. -/

namespace Sys2Proof

/-- Every step of a run of length at most `n` from `s` answers a next state. -/
def SafeRun (n : Nat) (s : Machine.State) : Prop :=
  ∀ k, k ≤ n → ∃ t, Host.Core.run core k s = .next t

/-- The invariants of R37, as that rule's table gives them. -/
def StateInvariants (s : Machine.State) : Prop :=
  (8 ≤ s.rate.toNat ∧ s.rate.toNat ≤ 1600 ∧ s.rate.toNat % 8 = 0) ∧
  s.rate.toNat + s.cap.toNat = 1600 ∧
  (s.phase = .idle → s.b.toNat = 0 ∧ s.q.toNat = 0 ∧ ∀ k, (h : k < 200) → s.S[k] = 0#8) ∧
  (s.phase = .absorb → s.b.toNat < s.rate.toNat / 8 ∧ s.q.toNat = 0) ∧
  (s.phase = .squeeze → s.b.toNat = 0 ∧ s.q.toNat ≤ s.rate.toNat / 8)

/-- The state between two transactions: the invariants hold and no command is in flight, so
`cmd_ready` may rise (R265). -/
def Ready (s : Machine.State) : Prop := StateInvariants s ∧ s.response = none

/-- The configurations CFG_RC accepts (R7, R173). -/
abbrev LegalConfig (rate cap : BitVec 11) : Prop :=
  rate.toNat ≠ 0 ∧ rate.toNat % 8 = 0 ∧ rate.toNat + cap.toNat = 1600

/-- The opcode of a word, as a number: `w[31:28]` (R80). -/
def opcodeNumber (w : Word) : Nat := w.toNat / 2 ^ 28

/-- The bits of a word below the opcode, as a number: `w[27:0]`. -/
def belowOpcode (w : Word) : Nat := w.toNat % 2 ^ 28

/-- The words outside the eleven commands (R86 to R89), in numbers: a reserved opcode, a reserved bit
set, or STATUS with SEL = 3. -/
abbrev ReservedWord (w : Word) : Prop :=
  0xB ≤ opcodeNumber w ∨
  (opcodeNumber w ∈ [0x0, 0x3, 0x4, 0x6, 0x7, 0x8, 0xA] ∧ belowOpcode w ≠ 0) ∨
  (opcodeNumber w = 0x1 ∧ belowOpcode w / 2 ^ 22 ≠ 0) ∨
  (opcodeNumber w ∈ [0x2, 0x5] ∧ belowOpcode w / 2 ^ 8 ≠ 0) ∨
  (opcodeNumber w = 0x9 ∧ (belowOpcode w / 2 ^ 2 ≠ 0 ∨ belowOpcode w % 2 ^ 2 = 3))

/-- What a command that succeeds leaves: the state `t` with the response (OK, `data`) offered.
Every field of `t` stands, the internal state of R40 with it (log entry 20). -/
def answered (data : Word) (t : Machine.State) : Machine.Result :=
  .next { t with response := some { code := .ok, data := data } }

/-- What a command that ends with error `code` leaves: the state before it, but for ERRF where no error
was recorded, and the response (`code`, 0) (R234, R235). The internal state of R40 is held with the rest
(log entry 20). -/
def failedWith (code : Machine.ErrCode) (s : Machine.State) : Machine.Result :=
  .next { s with
    errf := if s.errf = .ok then code else s.errf
    response := some { code := code, data := 0#32 } }

end Sys2Proof
end

