-- ==== Sys2Proof/Certificates/Slice0/Obligations.lean ====
section
/-! DEFINITION. The statements for the provers, from the numbered rules of spec/. Premises on the state
are the invariants of spec/10_state.md R37 (`StateInvariants`, which `StepKeepsTheInvariants` keeps):
a state that breaks one is a fault (`BrokenStateFaults`). `answered` and `failedWith`
(`Sys2Proof/Safety.lean`) spell out the whole next state, so an equation with one of them is also the
frame: every field it does not name is unchanged. For the internal state of R40 that is the model's
choice (log entry 20), and each statement that rests on it says so. -/

open Sys2Proof Sys2Proof.Machine

/-! ## Encoding (spec/30_encoding.md) -/

/-- R98: the example words, one per format. -/
def Obligations.ExampleWordsDecode : Prop :=
  decode 0x00000000#32 = .ok .nop ∧
  decode 0x10220200#32 = .ok (.cfgRc 1088#11 512#11) ∧
  decode 0x20000006#32 = .ok (.cfgSfx 0x06#8) ∧
  decode 0x50000061#32 = .ok (.absorb 0x61#8) ∧
  decode 0x90000001#32 = .ok (.status 1#2) ∧
  decode 0xA0000000#32 = .ok .clrErr ∧
  decode 0x10620200#32 = .error .reservedBits ∧
  encode .nop = 0x00000000#32 ∧
  encode (.cfgRc 1088#11 512#11) = 0x10220200#32 ∧
  encode (.cfgSfx 0x06#8) = 0x20000006#32 ∧
  encode (.absorb 0x61#8) = 0x50000061#32 ∧
  encode (.status 1#2) = 0x90000001#32 ∧
  encode .clrErr = 0xA0000000#32

/-- R81 to R86, R91: every command's word decodes to that command, whatever its operands. -/
def Obligations.DecodeOfEncodeIsTheCommand : Prop :=
  ∀ i : Instr, WellFormed i → decode (encode i) = .ok i

/-- R86, R90, R91: a word that decodes is the word of the command it decodes to, so each command has
exactly one word. -/
def Obligations.EncodeOfDecodeIsTheWord : Prop :=
  ∀ (w : Word) (i : Instr), decode w = .ok i → WellFormed i ∧ encode i = w

/-- R90: every word is exactly one of two things, a command or illegal under R87 to R89. -/
def Obligations.EveryWordIsACommandOrReserved : Prop :=
  ∀ w : Word, (∃ i, decode w = .ok i) ↔ ¬ReservedWord w

/-- R87, R88, R89: an illegal word ends with ILLEGAL and changes nothing but ERRF, in every phase. That
this frame holds the internal state of R40 as well is the model's choice (log entry 20). -/
def Obligations.IllegalWordsFailWithIllegal : Prop :=
  ∀ (w : Word) (s : State), StateInvariants s → ReservedWord w →
    execute w s = failedWith .illegal s

/-! ## Reset, the ports and the step (spec/70_reset_and_hazards.md) -/

/-- R42: the reset value of every piece of state that has one, no command in flight, and both outputs
low while reset is asserted. (`scratch` is unspecified there; `host` and `permCount` are no state
of the engine.) -/
def Obligations.ResetValues : Prop :=
  (∀ k, (h : k < 200) → State.reset.S[k] = 0x00#8) ∧
  State.reset.rate.toNat = 1088 ∧ State.reset.cap.toNat = 512 ∧ State.reset.sfx = 0x01#8 ∧
  State.reset.phase = .idle ∧ State.reset.b = 0#8 ∧ State.reset.q = 0#8 ∧
  State.reset.errf = .ok ∧ State.reset.response = none ∧
  ∀ (s : State) (p : HostPins), p.rst = true → s.cmdReady p = false ∧ s.rspValid p = false

/-- R260 (and R261): from every state, whatever a command in flight has done, an edge with reset
asserted leaves the reset values, abandons the command and discards its response. -/
def Obligations.ResetFromAnyState : Prop :=
  ∀ s : State, s.pins.rst = true →
    ∃ t, step s = .next t ∧ t.S = Vector.replicate 200 0x00#8 ∧ t.rate = 1088#11 ∧ t.cap = 512#11 ∧
      t.sfx = 0x01#8 ∧ t.phase = .idle ∧ t.b = 0#8 ∧ t.q = 0#8 ∧ t.errf = .ok ∧
      t.response = none ∧ t.host = s.host.tail

/-- R37, R42: the reset state meets the invariants. -/
def Obligations.ResetMeetsTheInvariants : Prop := StateInvariants State.reset

/-- R37: every step keeps the invariants, whatever the host does. -/
def Obligations.StepKeepsTheInvariants : Prop :=
  ∀ s t : State, StateInvariants s → step s = .next t → StateInvariants t

/-- R37: a state that breaks an invariant is a fault for every command and at every edge but reset.
The model's choice of stopping there is the treatment that R37 and
spec/93_implementation_defined.md I10 recommend. -/
def Obligations.BrokenStateFaults : Prop :=
  ∀ s : State, ¬StateInvariants s →
    (∀ i, ∃ f, exec i s = .fault f) ∧ (s.pins.rst = false → ∃ f, step s = .fault f)

/-- R141, R230: no command, word or edge stops the engine: every run of any length from a state that
meets the invariants answers a next state at every step. An edge at which nothing transfers is one of
these steps: it answers next with the response held (R266) or the state kept (R245). That includes the
edges of a host that never takes a response: R267 has it stall the engine for ever and
spec/93_implementation_defined.md I12 calls that stuck, and to answer next there, a step in which only
the host's moves pass, is the model's choice (log entry 4). So the statement says that no step stops
the model, not that a hash ends. -/
def Obligations.EveryRunGoesOn : Prop :=
  ∀ (n : Nat) (s : State), StateInvariants s → SafeRun n s

/-- R170, R265: a step at which a word transfers, legal or not, is that word's execution on the state
with that edge behind it: the command it decodes to, or, for a word that R87 to R89 make illegal, the
response (ILLEGAL, 0) with nothing changed but ERRF (R234, R235). And `withFetchWord` makes the very
next step such a step. That this frame holds the internal state of R40 as well is the model's choice
(log entry 20). -/
def Obligations.StepRunsTheDecodedCommand : Prop :=
  (∀ s : State, s.response = none → s.pins.rst = false → s.pins.cmdValid = true →
    step s = execute s.pins.cmdWord { s with host := s.host.tail } ∧
    (∀ i, decode s.pins.cmdWord = .ok i → step s = exec i { s with host := s.host.tail }) ∧
    (StateInvariants s → ReservedWord s.pins.cmdWord →
      step s = failedWith .illegal { s with host := s.host.tail })) ∧
  (∀ (s : State) (nbits w : Nat),
    step (s.withFetchWord nbits w) = execute (tableWord nbits w) { s with response := none } ∧
    (∀ i, decodeTableWord nbits w = some i →
      step (s.withFetchWord nbits w) = exec i { s with response := none }))

/-- R265, R266: while a command is in flight no word is taken, whatever the host presents, and its
response stays as it is until the host takes it. That such an edge is a step of its own is log entry 4;
that the internal state of R40 holds through it is the model's choice (log entry 20). -/
def Obligations.BusyEngineTakesNoWord : Prop :=
  ∀ (s : State) (r : Response), StateInvariants s → s.response = some r → s.pins.rst = false →
    s.cmdReady s.pins = false ∧ s.rspPort s.pins = some r ∧
    step s = .next { s with
      host := s.host.tail
      response := if s.pins.rspReady then none else some r }

/-- R245, R264: while no word is offered and none is in flight, the engine keeps all its state. That
such an edge is a step of its own is log entry 4; that the internal state of R40 holds through it is the
model's choice (log entry 20). -/
def Obligations.WaitingEngineKeepsItsState : Prop :=
  ∀ s : State, StateInvariants s → s.response = none → s.pins.rst = false →
    s.pins.cmdValid = false → step s = .next { s with host := s.host.tail }

/-- R92, R265: every accepted word, legal or not, leaves one response in flight, so that no further
word is taken; RCODE is 0 to 3, and DATA is 0 where RCODE is not 0 and for every command but SQUEEZE
and STATUS. -/
def Obligations.EveryAcceptedWordIsAnswered : Prop :=
  ∀ s t : State, s.pins.rst = false → s.pins.cmdValid = true → s.response = none →
    step s = .next t →
    ∃ r, t.response = some r ∧ (∀ p, t.cmdReady p = false) ∧ r.code.code.toNat ≤ 3 ∧
      (r.code ≠ .ok → r.data = 0#32) ∧
      (∀ i, decode s.pins.cmdWord = .ok i → i ≠ .squeeze → (∀ sel, i ≠ .status sel) →
        r.data = 0#32) ∧
      (decode s.pins.cmdWord = .ok .squeeze → r.data.toNat < 256)

/-! ## Errors (spec/60_exceptions.md) -/

/-- R171: the phases in which each command is legal. In any other phase it fails with SEQ; in those it
completes, and not with SEQ. That this frame holds the internal state of R40 as well is the model's
choice (log entry 20). -/
def Obligations.PhaseTable : Prop :=
  ∀ (i : Instr) (s : State), StateInvariants s →
    let legal : Prop :=
      match i with
      | .cfgRc _ _ | .cfgSfx _ | .cfgK256 => s.phase = .idle
      | .absorb _ | .final => s.phase = .absorb
      | .squeeze => s.phase = .squeeze
      | .nop | .start | .endHash | .status _ | .clrErr => True
    (¬legal → exec i s = failedWith .seq s) ∧
    (legal → ∃ t r, exec i s = .next t ∧ t.response = some r ∧ r.code ≠ .seq)

/-- R233: ILLEGAL goes before SEQ, and SEQ before CFG. That this frame holds the internal state of R40
as well is the model's choice (log entry 20). -/
def Obligations.ErrorPriority : Prop :=
  ∀ (w : Word) (s : State), StateInvariants s →
    (ReservedWord w → execute w s = failedWith .illegal s) ∧
    (∀ rate cap, decode w = .ok (.cfgRc rate cap) →
      (s.phase ≠ .idle → execute w s = failedWith .seq s) ∧
      (s.phase = .idle → ¬LegalConfig rate cap → execute w s = failedWith .cfg s))

/-- R234: a command that ends in an error writes nothing but ERRF, and DATA is 0. That this frame holds
the internal state of R40 as well is the model's choice (log entry 20). -/
def Obligations.ErrorsWriteOnlyErrf : Prop :=
  ∀ (w : Word) (s t : State) (r : Response), execute w s = .next t → t.response = some r →
    r.code ≠ .ok →
    r.data = 0#32 ∧ ∃ e, t = { s with errf := e, response := some { code := r.code, data := 0#32 } }

/-- R235: ERRF takes the code of the first error and keeps it; of the commands only CLRERR clears it,
and reset does; and the RCODE of a response does not depend on what ERRF holds. -/
def Obligations.FirstErrorIsSticky : Prop :=
  (∀ (w : Word) (s t : State) (r : Response), execute w s = .next t → t.response = some r →
    (r.code ≠ .ok → s.errf = .ok → t.errf = r.code) ∧
    (r.code ≠ .ok → s.errf ≠ .ok → t.errf = s.errf) ∧
    (r.code = .ok → decode w ≠ .ok .clrErr → t.errf = s.errf) ∧
    (r.code = .ok → decode w = .ok .clrErr → t.errf = .ok) ∧
    (∀ e, ∃ t' r', execute w { s with errf := e } = .next t' ∧ t'.response = some r' ∧
      r'.code = r.code)) ∧
  (∀ s t : State, s.pins.rst = true → step s = .next t → t.errf = .ok)

/-- R232: which errors a command can end with, whatever its operands. -/
def Obligations.ErrorsByCommand : Prop :=
  ∀ (i : Instr) (s t : State) (r : Response), WellFormed i → exec i s = .next t →
    t.response = some r →
    match i with
    | .nop | .start | .endHash | .clrErr | .status _ => r.code = .ok
    | .cfgSfx _ | .cfgK256 | .absorb _ | .final | .squeeze => r.code = .ok ∨ r.code = .seq
    | .cfgRc _ _ => r.code = .ok ∨ r.code = .seq ∨ r.code = .cfg

/-! ## The commands (spec/42_sponge_commands.md) -/

/-- R172: NOP answers (OK, 0) and changes nothing; with any of bits 27:0 set its word is illegal. That
this frame holds the internal state of R40 as well is the model's choice (log entry 20). -/
def Obligations.NopChangesNothing : Prop :=
  ∀ s : State, StateInvariants s →
    exec .nop s = answered 0#32 s ∧
    execute 0x00000000#32 s = answered 0#32 s ∧
    (∀ w : Word, opcodeNumber w = 0x0 → belowOpcode w ≠ 0 →
      execute w s = failedWith .illegal s)

/-- R173: CFG_RC sets RATE and CAP where the values are legal, and else fails CFG and keeps them;
outside IDLE it fails SEQ, and with a reserved bit set ILLEGAL. That this frame holds the internal state
of R40 as well is the model's choice (log entry 20). -/
def Obligations.CfgRcSetsALegalConfiguration : Prop :=
  ∀ s : State, StateInvariants s →
    (∀ rate cap, s.phase = .idle → LegalConfig rate cap →
      exec (.cfgRc rate cap) s = answered 0#32 { s with rate := rate, cap := cap }) ∧
    (∀ rate cap, s.phase = .idle → ¬LegalConfig rate cap →
      exec (.cfgRc rate cap) s = failedWith .cfg s) ∧
    (∀ rate cap, s.phase ≠ .idle → exec (.cfgRc rate cap) s = failedWith .seq s) ∧
    (∀ w : Word, opcodeNumber w = 0x1 →
      (belowOpcode w / 2 ^ 22 ≠ 0 → execute w s = failedWith .illegal s) ∧
      (belowOpcode w / 2 ^ 22 = 0 → execute w s =
        exec (.cfgRc (BitVec.ofNat 11 (w.toNat / 2 ^ 11)) (BitVec.ofNat 11 w.toNat)) s))

/-- R174: CFG_SFX sets SFX to any byte; outside IDLE it fails SEQ, and with a reserved bit set ILLEGAL.
That this frame holds the internal state of R40 as well is the model's choice (log entry 20). -/
def Obligations.CfgSfxSetsTheSuffix : Prop :=
  ∀ s : State, StateInvariants s →
    (∀ v, s.phase = .idle → exec (.cfgSfx v) s = answered 0#32 { s with sfx := v }) ∧
    (∀ v, s.phase ≠ .idle → exec (.cfgSfx v) s = failedWith .seq s) ∧
    (∀ w : Word, opcodeNumber w = 0x2 →
      (belowOpcode w / 2 ^ 8 ≠ 0 → execute w s = failedWith .illegal s) ∧
      (belowOpcode w / 2 ^ 8 = 0 →
        execute w s = exec (.cfgSfx (BitVec.ofNat 8 w.toNat)) s))

/-- R175: CFG_K256 loads the Keccak-256 profile, and leaves exactly the state that CFG_RC 1088, 512
followed by CFG_SFX 0x01 leaves; outside IDLE it fails SEQ, and with a reserved bit set ILLEGAL. That
this frame holds the internal state of R40 as well is the model's choice (log entry 20). -/
def Obligations.CfgK256LoadsTheProfile : Prop :=
  ∀ s : State, StateInvariants s →
    (s.phase = .idle → exec .cfgK256 s =
      answered 0#32 { s with rate := 1088#11, cap := 512#11, sfx := 0x01#8 }) ∧
    (s.phase = .idle → ∃ t, exec (.cfgRc 1088#11 512#11) s = .next t ∧
      exec (.cfgSfx 0x01#8) t = exec .cfgK256 s) ∧
    (s.phase ≠ .idle → exec .cfgK256 s = failedWith .seq s) ∧
    execute 0x30000000#32 s = exec .cfgK256 s ∧
    (∀ w : Word, opcodeNumber w = 0x3 → belowOpcode w ≠ 0 →
      execute w s = failedWith .illegal s)

/-- R176: START zeroes S, B and Q and goes to ABSORB from every phase; nothing else is written. That
this frame holds the internal state of R40 as well is the model's choice (log entry 20). -/
def Obligations.StartBeginsAHash : Prop :=
  ∀ s : State, StateInvariants s →
    exec .start s = answered 0#32
      { s with S := Vector.replicate 200 0x00#8, b := 0#8, q := 0#8, phase := .absorb } ∧
    execute 0x40000000#32 s = exec .start s ∧
    (∀ w : Word, opcodeNumber w = 0x4 → belowOpcode w ≠ 0 →
      execute w s = failedWith .illegal s)

/-- R176 (corner case): the hash that START begins does not depend on what came before: two states
with the same configuration go to states that agree on all that a hash uses. -/
def Obligations.StartForgetsThePast : Prop :=
  ∀ s s' : State, StateInvariants s → StateInvariants s' →
    s.rate = s'.rate → s.cap = s'.cap → s.sfx = s'.sfx → s.errf = s'.errf →
    ∃ t t', exec .start s = .next t ∧ exec .start s' = .next t' ∧
      t.S = t'.S ∧ t.b = t'.b ∧ t.q = t'.q ∧ t.phase = t'.phase ∧ t.rate = t'.rate ∧
      t.cap = t'.cap ∧ t.sfx = t'.sfx ∧ t.errf = t'.errf ∧ t.response = t'.response

/-- R177: ABSORB XORs its byte into S[B] and advances B; where B then is R it permutes and clears B.
S[B] is byte `s.b` of the state before. Outside ABSORB it fails SEQ, and with a reserved bit set
ILLEGAL. After a permutation the model's own fields are the model's choice: `scratch` holds any value
`v` (log entry 2), and `permCount` counts the permutation (log entry 5). Where nothing permutes, holding
`scratch` is the model's choice too (log entry 20). -/
def Obligations.AbsorbXorsOneByte : Prop :=
  ∀ (s : State) (d : Byte), StateInvariants s →
    (s.phase = .absorb → s.b.toNat + 1 < s.rate.toNat / 8 → exec (.absorb d) s = answered 0#32
      { s with
        S := s.S.setIfInBounds s.b.toNat (byteAt s.S s.b.toNat ^^^ d)
        b := s.b + 1#8 }) ∧
    (s.phase = .absorb → s.b.toNat + 1 = s.rate.toNat / 8 → ∃ v, exec (.absorb d) s = answered 0#32
      { s with
        S := keccakF (s.S.setIfInBounds s.b.toNat (byteAt s.S s.b.toNat ^^^ d))
        b := 0#8
        scratch := v
        permCount := s.permCount + 1 }) ∧
    (s.phase ≠ .absorb → exec (.absorb d) s = failedWith .seq s) ∧
    (∀ w : Word, opcodeNumber w = 0x5 →
      (belowOpcode w / 2 ^ 8 ≠ 0 → execute w s = failedWith .illegal s) ∧
      (belowOpcode w / 2 ^ 8 = 0 →
        execute w s = exec (.absorb (BitVec.ofNat 8 w.toNat)) s))

/-- R177, R21: an ABSORB that fills no block changes byte B of S and no other, and B lies in the rate
region. -/
def Obligations.AbsorbChangesOneByteOfTheRate : Prop :=
  ∀ (s t : State) (d : Byte), StateInvariants s → s.phase = .absorb →
    s.b.toNat + 1 < s.rate.toNat / 8 → exec (.absorb d) s = .next t →
    s.b.toNat < s.rate.toNat / 8 ∧
    byteAt t.S s.b.toNat = byteAt s.S s.b.toNat ^^^ d ∧
    ∀ a, a ≠ s.b.toNat → byteAt t.S a = byteAt s.S a

/-- R178: FINAL XORs SFX into S[B], permutes in the special case SFX[7] = 1 and B = R - 1, XORs 0x80
into S[R-1], permutes, and goes to SQUEEZE with both cursors 0. Outside ABSORB it fails SEQ, and with a
reserved bit set ILLEGAL. What the model's own fields hold after the permutations is the model's choice:
any value `v` in `scratch` (log entry 2), and each permutation counted in `permCount` (log entry 5).
Where nothing permutes, holding `scratch` is the model's choice too (log entry 20). -/
def Obligations.FinalPadsAndPermutes : Prop :=
  ∀ s : State, StateInvariants s →
    (s.phase = .absorb →
      let R := s.rate.toNat / 8
      let S1 := s.S.setIfInBounds s.b.toNat (byteAt s.S s.b.toNat ^^^ s.sfx)
      let special := 0x80 ≤ s.sfx.toNat ∧ s.b.toNat + 1 = R
      let S2 := if special then keccakF S1 else S1
      ∃ v, exec .final s = answered 0#32
        { s with
          S := keccakF (S2.setIfInBounds (R - 1) (byteAt S2 (R - 1) ^^^ 0x80#8))
          b := 0#8
          q := 0#8
          phase := .squeeze
          scratch := v
          permCount := s.permCount + (if special then 2 else 1) }) ∧
    (s.phase ≠ .absorb → exec .final s = failedWith .seq s) ∧
    execute 0x60000000#32 s = exec .final s ∧
    (∀ w : Word, opcodeNumber w = 0x6 → belowOpcode w ≠ 0 →
      execute w s = failedWith .illegal s)

/-- R179: SQUEEZE returns S[Q] and advances Q; where Q is R it permutes and clears Q first. Outside
SQUEEZE it fails SEQ, and with a reserved bit set ILLEGAL. What the model's own fields hold after the
permutation is the model's choice: any value `v` in `scratch` (log entry 2), and the permutation counted
in `permCount` (log entry 5). Where nothing permutes, holding `scratch` is the model's choice too (log
entry 20). -/
def Obligations.SqueezeReturnsOneByte : Prop :=
  ∀ s : State, StateInvariants s →
    (s.phase = .squeeze → s.q.toNat < s.rate.toNat / 8 → exec .squeeze s =
      answered (BitVec.ofNat 32 (byteAt s.S s.q.toNat).toNat) { s with q := s.q + 1#8 }) ∧
    (s.phase = .squeeze → s.q.toNat = s.rate.toNat / 8 → ∃ v, exec .squeeze s =
      answered (BitVec.ofNat 32 (byteAt (keccakF s.S) 0).toNat)
        { s with
          S := keccakF s.S
          q := 1#8
          scratch := v
          permCount := s.permCount + 1 }) ∧
    (s.phase ≠ .squeeze → exec .squeeze s = failedWith .seq s) ∧
    execute 0x70000000#32 s = exec .squeeze s ∧
    (∀ w : Word, opcodeNumber w = 0x7 → belowOpcode w ≠ 0 →
      execute w s = failedWith .illegal s)

/-- R180: END zeroes S, B and Q and goes to IDLE from every phase, keeping RATE, CAP, SFX and ERRF; in
IDLE that changes nothing but the response. That this frame holds the internal state of R40 as well is
the model's choice (log entry 20). -/
def Obligations.EndDiscardsTheComputation : Prop :=
  ∀ s : State, StateInvariants s →
    exec .endHash s = answered 0#32
      { s with S := Vector.replicate 200 0x00#8, b := 0#8, q := 0#8, phase := .idle } ∧
    (s.phase = .idle → exec .endHash s = answered 0#32 s) ∧
    execute 0x80000000#32 s = exec .endHash s ∧
    (∀ w : Word, opcodeNumber w = 0x8 → belowOpcode w ≠ 0 →
      execute w s = failedWith .illegal s)

/-- R181, R93 to R95: STATUS answers the selected word and changes nothing; SEL = 3 and any other
reserved bit are illegal. The word of SEL = 0 holds PHASE in bits 1:0, ERRF in 6:4, B in 15:8 and Q in
23:16; that of SEL = 1 RATE in 10:0 and CAP in 26:16; that of SEL = 2 SFX in 7:0; every other bit is 0.
That this frame holds the internal state of R40 as well is the model's choice (log entry 20). -/
def Obligations.StatusReadsTheRegisters : Prop :=
  ∀ s : State, StateInvariants s →
    (∃ d : Word, exec (.status 0#2) s = answered d s ∧
      d.toNat = s.q.toNat * 2 ^ 16 + s.b.toNat * 2 ^ 8 +
        (match s.errf with | .ok => 0 | .illegal => 1 | .seq => 2 | .cfg => 3) * 2 ^ 4 +
        (match s.phase with | .idle => 0 | .absorb => 1 | .squeeze => 2)) ∧
    (∃ d : Word, exec (.status 1#2) s = answered d s ∧
      d.toNat = s.cap.toNat * 2 ^ 16 + s.rate.toNat) ∧
    (∃ d : Word, exec (.status 2#2) s = answered d s ∧ d.toNat = s.sfx.toNat) ∧
    exec (.status 3#2) s = failedWith .illegal s ∧
    (∀ w : Word, opcodeNumber w = 0x9 →
      (belowOpcode w / 2 ^ 2 ≠ 0 ∨ belowOpcode w % 2 ^ 2 = 3 → execute w s = failedWith .illegal s) ∧
      (belowOpcode w / 2 ^ 2 = 0 → belowOpcode w % 2 ^ 2 ≠ 3 →
        execute w s = exec (.status (BitVec.ofNat 2 w.toNat)) s))

/-- R182: CLRERR clears ERRF and nothing else; an illegal CLRERR leaves ERRF as any illegal word does.
That this frame holds the internal state of R40 as well is the model's choice (log entry 20). -/
def Obligations.ClrErrClearsTheStickyError : Prop :=
  ∀ s : State, StateInvariants s →
    exec .clrErr s = answered 0#32 { s with errf := .ok } ∧
    (s.errf = .ok → exec .clrErr s = answered 0#32 s) ∧
    execute 0xA0000000#32 s = exec .clrErr s ∧
    (∀ w : Word, opcodeNumber w = 0xA → belowOpcode w ≠ 0 →
      execute w s = failedWith .illegal s)

/-- R43, R22: which registers each command writes. A register not named for a command is unchanged by
it, whether it succeeds or fails; S is written by START, ABSORB, FINAL, SQUEEZE and END alone. -/
def Obligations.RegisterWriters : Prop :=
  ∀ (i : Instr) (s t : State), exec i s = .next t →
    ((∀ r c, i ≠ .cfgRc r c) → i ≠ .cfgK256 → t.rate = s.rate ∧ t.cap = s.cap) ∧
    ((∀ v, i ≠ .cfgSfx v) → i ≠ .cfgK256 → t.sfx = s.sfx) ∧
    (i ≠ .start → i ≠ .final → i ≠ .endHash → t.phase = s.phase) ∧
    (i ≠ .start → (∀ d, i ≠ .absorb d) → i ≠ .final → i ≠ .endHash → t.b = s.b) ∧
    (i ≠ .start → i ≠ .final → i ≠ .squeeze → i ≠ .endHash → t.q = s.q) ∧
    (i ≠ .start → (∀ d, i ≠ .absorb d) → i ≠ .final → i ≠ .squeeze → i ≠ .endHash →
      ∀ a, byteAt t.S a = byteAt s.S a)

/-- R183: the permutations each command runs, where it is legal. `permCount` is the model's own count
(log entry 5). -/
def Obligations.PermutationsPerCommand : Prop :=
  ∀ (i : Instr) (s : State), StateInvariants s → legalIn i s.phase = true →
    ∃ t, exec i s = .next t ∧ t.permCount = s.permCount + permutationsOf i s

/-- R40, R111: what the LFSR register and the other internal state of R40 hold between commands
affects no command: two states that differ there alone answer alike and differ there alone after. -/
def Obligations.InternalStateNeverMatters : Prop :=
  ∀ (w : Word) (s t : State) (v : PermScratch), execute w s = .next t →
    ∃ v', execute w { s with scratch := v } = .next { t with scratch := v' }

/-! ## The round constants (spec/40_round_constants.md) -/

/-- R112, R113, R115: one call of the LFSR, for every register value. -/
def Obligations.LfsrStepRule : Prop :=
  (∀ l : Byte, (lfsrStep l).1.toNat =
    (if 128 ≤ l.toNat then (2 * l.toNat % 256) ^^^ 0x71 else 2 * l.toNat % 256)) ∧
  (∀ l : Byte, (lfsrStep l).2 = l.getLsbD 0 ∧ (lfsrStep l).2 = (lfsrStep l).1.getLsbD 1) ∧
  lfsrStep 0x00#8 = (0x00#8, false)

/-- R114, R115, R119: from every non-zero value the register first returns after 255 calls and goes on
with that period; from the seed it never is 0, and it is 0x8E after the 168 calls of a
permutation. -/
def Obligations.LfsrPeriod : Prop :=
  (∀ l : Byte, l ≠ 0x00#8 →
    (∀ k, lfsrAfter (k + 255) l = lfsrAfter k l) ∧
    (∀ k, 0 < k → k < 255 → lfsrAfter k l ≠ l)) ∧
  (∀ k, lfsrAfter k lfsrSeed ≠ 0x00#8) ∧
  lfsrAfter 168 lfsrSeed = 0x8E#8

/-- R117, R118: the 24 round constants that the LFSR generates are the table's, and they have bits only
at positions 0, 1, 3, 7, 15, 31 and 63. -/
def Obligations.RoundConstantTable : Prop :=
  (List.range 24).map roundConstant = rcTable ∧
  ∀ rc ∈ rcTable, ∀ z, z < 64 → rc.getLsbD z = true → z ∈ [0, 1, 3, 7, 15, 31, 63]

/-- R116, R139, R140: in round i, ι takes seven LFSR bits and XORs RC(i) into lane (0, 0), and into no
other lane. -/
def Obligations.IotaXorsTheRoundConstant : Prop :=
  ∀ (A : Lanes) (i : Nat), i < 24 →
    (iota A (lfsrAfter (7 * i) lfsrSeed)).2 = lfsrAfter (7 * (i + 1)) lfsrSeed ∧
    laneAt (iota A (lfsrAfter (7 * i) lfsrSeed)).1 0 0 = laneAt A 0 0 ^^^ rcTable.getD i 0#64 ∧
    ∀ x y : Fin 5, ¬(x = 0 ∧ y = 0) →
      laneAt (iota A (lfsrAfter (7 * i) lfsrSeed)).1 x y = laneAt A x y

/-- R117: whether round constants come from the LFSR or from the table cannot be told apart. -/
def Obligations.RoundConstantSourceNotObservable : Prop :=
  ∀ (src : Config.RcSource) (S : StateBytes), keccakFWith src S = keccakF S

/-! ## The permutation (spec/41_permutation.md) and the lane layout (spec/20_memory.md) -/

/-- R132, R133: θ, lane by lane, from the column parities before the step; with every parity 0 it is
the identity. -/
def Obligations.ThetaUsesOldParities : Prop :=
  ∀ A : Lanes,
    let C := fun x : Fin 5 =>
      laneAt A x 0 ^^^ laneAt A x 1 ^^^ laneAt A x 2 ^^^ laneAt A x 3 ^^^ laneAt A x 4
    (∀ x y : Fin 5,
      laneAt (theta A) x y = laneAt A x y ^^^ (C (x + 4) ^^^ (C (x + 1)).rotateLeft 1)) ∧
    ((∀ x, C x = 0#64) → theta A = A)

/-- R134 to R137: the walk is the closed form: the lane from (x, y) at step t goes to
(y, (2x + 3y) mod 5) rotated by (t+1)(t+2)/2 mod 64, and lane (0, 0) stays. The rows of
`rhoPiTable` are those of R136. -/
def Obligations.RhoPiClosedForm : Prop :=
  rhoPiTable.length = 24 ∧
  (∀ t, (h : t < rhoPiTable.length) →
    (rhoPiTable[t]).1 =
      ((rhoPiTable[t]).2.1.2, 2 * (rhoPiTable[t]).2.1.1 + 3 * (rhoPiTable[t]).2.1.2) ∧
    (rhoPiTable[t]).2.2 = (t + 1) * (t + 2) / 2 % 64) ∧
  (∀ x y : Fin 5, ¬(x = 0 ∧ y = 0) → ∃ row ∈ rhoPiTable, row.1 = (x, y)) ∧
  ∀ A : Lanes,
    laneAt (rhoPi A) 0 0 = laneAt A 0 0 ∧
    ∀ row ∈ rhoPiTable,
      laneAt (rhoPi A) row.1.1 row.1.2 = (laneAt A row.2.1.1 row.2.1.2).rotateLeft row.2.2

/-- R138: χ, lane by lane, from the row before the step; a row of zeros stays zero, and a row of ones
stays all ones. -/
def Obligations.ChiUsesOldRows : Prop :=
  ∀ A : Lanes,
    (∀ x y : Fin 5, laneAt (chi A) x y =
      laneAt A x y ^^^ (~~~ (laneAt A (x + 1) y) &&& laneAt A (x + 2) y)) ∧
    (∀ y : Fin 5, (∀ x, laneAt A x y = 0#64) → ∀ x, laneAt (chi A) x y = 0#64) ∧
    (∀ y : Fin 5, (∀ x, laneAt A x y = BitVec.allOnes 64) →
      ∀ x, laneAt (chi A) x y = BitVec.allOnes 64) ∧
    (∀ (x y : Fin 5), (∀ x', x' ≠ x → laneAt A x' y = 0#64) →
      laneAt (chi A) x y = laneAt A x y ∧ laneAt (chi A) (x + 3) y = laneAt A x y)

/-- R142: KeccakF is a bijection on the 2^1600 states. -/
def Obligations.KeccakFIsABijection : Prop := Function.Bijective keccakF

/-- R61, R62: a lane is its eight bytes in little-endian order, bit by bit, and the two views hold the
same bits. -/
def Obligations.LaneLayout : Prop :=
  ∀ S : StateBytes,
    (∀ x y : Fin 5, (laneAt (lanesOfBytes S) x y).toNat =
      ((List.range 8).map fun i => (byteAt S (8 * (x.val + 5 * y.val) + i)).toNat * 2 ^ (8 * i)).sum) ∧
    (∀ (x y : Fin 5) (z : Nat), z < 64 → (laneAt (lanesOfBytes S) x y).getLsbD z =
      (byteAt S (8 * (x.val + 5 * y.val) + z / 8)).getLsbD (z % 8)) ∧
    bytesOfLanes (lanesOfBytes S) = S ∧
    (∀ A : Lanes, lanesOfBytes (bytesOfLanes A) = A)

/-! ## Whole hashes (spec/42_sponge_commands.md R183 to R188) -/

/-- R186 (absorption): after START and the ABSORBs of any message, B is its length modulo R, and S and
B are what SpongeRef's absorption loop leaves. -/
def Obligations.AbsorbingFollowsTheReference : Prop :=
  ∀ (s : State) (M : List Byte), Ready s →
    ∃ rs t, transactAll ((.start :: absorbs M).map encode) s = some (rs, t) ∧ Ready t ∧
      (∀ r ∈ rs, r = { code := .ok, data := 0#32 }) ∧
      t.phase = .absorb ∧ t.b.toNat = M.length % (s.rate.toNat / 8) ∧
      (t.S, t.b.toNat) = refAbsorb (s.rate.toNat / 8) M.length M (zeroBytes, 0)

/-- R185, R186: for every legal configuration, suffix byte, message and output length, and from any
state between commands, the hash transaction answers OK throughout and its output is SpongeRef's. -/
def Obligations.HashTransactionIsSpongeRef : Prop :=
  ∀ (s : State) (rate cap : BitVec 11) (sfx : Byte) (M : List Byte) (L : Nat), Ready s →
    LegalConfig rate cap →
    ∃ rs t, transactAll ((hashCommands rate cap sfx M L).map encode) s = some (rs, t) ∧
      (∀ r ∈ rs, r.code = .ok) ∧
      outputBytes L rs = spongeRef rate.toNat cap.toNat M sfx L

/-- R187: the KECCAK256 transaction is SpongeRef with the profile and 32 bytes of output. -/
def Obligations.Keccak256TransactionIsSpongeRef : Prop :=
  ∀ (s : State) (M : List Byte), Ready s →
    ∃ rs t, transactAll ((keccak256Commands M).map encode) s = some (rs, t) ∧
      (∀ r ∈ rs, r.code = .ok) ∧ outputBytes 32 rs = spongeRef 1088 512 M 0x01#8 32

/-- R263: after reset the Keccak-256 profile needs no set-up: START, the ABSORBs, FINAL and 32 SQUEEZEs
answer OK throughout and give the hash at once. -/
def Obligations.ResetIsReadyForKeccak256 : Prop :=
  ∀ M : List Byte,
    ∃ rs t, transactAll ((Instr.start :: absorbs M ++ Instr.final :: squeezeN 32).map encode) State.reset =
        some (rs, t) ∧
      (∀ r ∈ rs, r.code = .ok) ∧ outputBytes 32 rs = spongeRef 1088 512 M 0x01#8 32

/-- R183: the permutations of a whole hash of n bytes to L bytes:
n / R + 1 + [SFX[7] = 1 and n mod R = R - 1] + max(0, ⌈L/R⌉ - 1). -/
def Obligations.PermutationsPerHash : Prop :=
  ∀ (s : State) (rate cap : BitVec 11) (sfx : Byte) (M : List Byte) (L : Nat), Ready s →
    LegalConfig rate cap →
    ∃ rs t, transactAll ((hashCommands rate cap sfx M L).map encode) s = some (rs, t) ∧
      let R := rate.toNat / 8
      t.permCount = s.permCount + M.length / R + 1 +
        (if 0x80 ≤ sfx.toNat ∧ M.length % R = R - 1 then 1 else 0) + ((L + R - 1) / R - 1)

/-- R185, R67: NOP and STATUS between two commands leave the engine as it was, so they can stand
anywhere in a transaction; and STATUS repeated answers the same word. That the internal state of R40 is
left as it was too is the model's choice (log entry 20). -/
def Obligations.NopAndStatusDisturbNothing : Prop :=
  ∀ (s : State) (sel : BitVec 2), Ready s → sel ≠ 3#2 →
    transact (encode .nop) s = some ({ code := .ok, data := 0#32 }, { s with host := [] }) ∧
    (∃ r, r.code = .ok ∧ transact (encode (.status sel)) s = some (r, { s with host := [] }) ∧
      transact (encode (.status sel)) { s with host := [] } = some (r, { s with host := [] }))

/-! ## Several engines and the assembler -/

/-- R75, R243: a step of one engine of a platform changes no other. -/
def Obligations.EnginesShareNothing : Prop :=
  ∀ (p q : Platform) (k j : Nat), p.stepEngine k = .next q → j ≠ k →
    q.engines[j]? = p.engines[j]? ∧ q.engines.length = p.engines.length

/-- R96, R97: whatever line is assembled, every word it gives is a command's; no illegal word is built. -/
def Obligations.AssemblerBuildsOnlyCommands : Prop :=
  ∀ (cs : List Char) (ws : List Word), Asm.assemble cs = some ws →
    ∀ w ∈ ws, ∃ i, WellFormed i ∧ decode w = .ok i
end

