-- ==== Sys2Proof/Laws/Bytes.lean ====
section
/-! SUPPORT. The laws of the accessors of S and of the lanes: a read after a write to the same place
gives the value written, and a write leaves every other place alone. -/

namespace Sys2Proof.Machine

/-- Reading a byte inside S. -/
theorem byteAt_eq_getElem (S : StateBytes) {k : Nat} (h : k < 200) : byteAt S k = S[k] := by
  simp [byteAt, h]

/-- Two states with the same 200 bytes are one state. -/
theorem stateBytes_ext {S T : StateBytes} (h : ∀ k, k < 200 → byteAt S k = byteAt T k) : S = T := by
  apply Vector.ext
  intro k hk
  have := h k hk
  rwa [byteAt_eq_getElem S hk, byteAt_eq_getElem T hk] at this

@[simp] theorem byteAt_zeroBytes (k : Nat) : byteAt zeroBytes k = 0#8 := by
  by_cases h : k < 200
  · simp [byteAt_eq_getElem _ h, zeroBytes]
  · simp [byteAt, zeroBytes, h]

/-- XOR-writing a byte of S changes that byte. -/
@[simp] theorem byteAt_xorByte_same (S : StateBytes) {k : Nat} (v : Byte) (h : k < 200) :
    byteAt (xorByte S k v) k = byteAt S k ^^^ v := by
  rw [byteAt_eq_getElem _ h]
  simp [xorByte]

/-- XOR-writing a byte of S changes no other byte. -/
theorem byteAt_xorByte_of_ne (S : StateBytes) {k j : Nat} (v : Byte) (h : j ≠ k) :
    byteAt (xorByte S k v) j = byteAt S j := by
  simp [byteAt, xorByte, Ne.symm h]

/-- R145 unfolded. -/
theorem keccakF_eq (S : StateBytes) : keccakF S = bytesOfLanes (keccakLanes (lanesOfBytes S)) := by
  rw [keccakF]

/-- The 24 rounds unfolded. -/
theorem keccakLanes_eq (A : Lanes) :
    keccakLanes A = ((List.range 24).foldl (fun a _ => keccakRound a) (A, lfsrSeed)).1 := by
  unfold keccakLanes
  rfl

/-- Byte `k` of the byte view of the lanes. -/
theorem getElem_bytesOfLanes (A : Lanes) {k : Nat} (h : k < 200) :
    (bytesOfLanes A)[k] = byteOfLanes A ⟨k, h⟩ := by
  delta bytesOfLanes
  exact Vector.getElem_ofFn h

theorem byteAt_bytesOfLanes (A : Lanes) (k : Fin 200) :
    byteAt (bytesOfLanes A) k.val = byteOfLanes A k := by
  rw [byteAt_eq_getElem _ k.isLt]
  exact getElem_bytesOfLanes A k.isLt

/-- The lane numbers and the lane positions are in step. -/
theorem laneIndex_div_mod (i : Fin 25) :
    laneIndex ⟨i.val % 5, by omega⟩ ⟨i.val / 5, by omega⟩ = i := by
  apply Fin.ext
  simp only [laneIndex]
  omega

theorem laneIndex_injective {x y x' y' : Fin 5} (h : laneIndex x y = laneIndex x' y') :
    x = x' ∧ y = y' := by
  have h' : x.val + 5 * y.val = x'.val + 5 * y'.val := congrArg Fin.val h
  constructor <;> apply Fin.ext <;> omega

/-- Two states with the same 25 lanes are one state. -/
theorem lanes_ext {A B : Lanes} (h : ∀ x y, laneAt A x y = laneAt B x y) : A = B := by
  apply Vector.ext
  intro i hi
  have := h ⟨i % 5, by omega⟩ ⟨i / 5, by omega⟩
  simpa [laneAt, laneIndex_div_mod ⟨i, hi⟩] using this

@[simp] theorem laneAt_buildLanes (f : Fin 5 → Fin 5 → Lane) (x y : Fin 5) :
    laneAt (buildLanes f) x y = f x y := by
  have hx : (x.val + 5 * y.val) % 5 = x.val := by omega
  have hy : (x.val + 5 * y.val) / 5 = y.val := by omega
  simp [laneAt, buildLanes, laneIndex, hx, hy]

@[simp] theorem laneAt_setLane_same (A : Lanes) (x y : Fin 5) (v : Lane) :
    laneAt (setLane A x y v) x y = v := by
  simp [laneAt, setLane]

theorem laneAt_setLane_of_ne (A : Lanes) {x y x' y' : Fin 5} (v : Lane)
    (h : ¬(x' = x ∧ y' = y)) : laneAt (setLane A x y v) x' y' = laneAt A x' y' := by
  have hne : (laneIndex x y).val ≠ (laneIndex x' y').val := by
    intro e
    have := laneIndex_injective (Fin.ext e)
    exact h ⟨this.1.symm, this.2.symm⟩
  simp only [laneAt, setLane, Fin.getElem_fin]
  exact Vector.getElem_set_ne _ _ hne

end Sys2Proof.Machine
end

