-- ==== Sys2Proof/Laws/State.lean ====
section
/-! SUPPORT. One lemma per field per named update of the state, so that no later proof unfolds an
update. -/

namespace Sys2Proof.Machine

/-! ### `xorS` -/

@[simp] theorem State.xorS_S (s : State) (k : Nat) (v : Byte) :
    (s.xorS k v).S = xorByte s.S k v := rfl

@[simp] theorem State.xorS_rate (s : State) (k : Nat) (v : Byte) :
    (s.xorS k v).rate = s.rate := rfl

@[simp] theorem State.xorS_cap (s : State) (k : Nat) (v : Byte) :
    (s.xorS k v).cap = s.cap := rfl

@[simp] theorem State.xorS_sfx (s : State) (k : Nat) (v : Byte) :
    (s.xorS k v).sfx = s.sfx := rfl

@[simp] theorem State.xorS_phase (s : State) (k : Nat) (v : Byte) :
    (s.xorS k v).phase = s.phase := rfl

@[simp] theorem State.xorS_b (s : State) (k : Nat) (v : Byte) :
    (s.xorS k v).b = s.b := rfl

@[simp] theorem State.xorS_q (s : State) (k : Nat) (v : Byte) :
    (s.xorS k v).q = s.q := rfl

@[simp] theorem State.xorS_errf (s : State) (k : Nat) (v : Byte) :
    (s.xorS k v).errf = s.errf := rfl

@[simp] theorem State.xorS_response (s : State) (k : Nat) (v : Byte) :
    (s.xorS k v).response = s.response := rfl

@[simp] theorem State.xorS_scratch (s : State) (k : Nat) (v : Byte) :
    (s.xorS k v).scratch = s.scratch := rfl

@[simp] theorem State.xorS_host (s : State) (k : Nat) (v : Byte) :
    (s.xorS k v).host = s.host := rfl

@[simp] theorem State.xorS_permCount (s : State) (k : Nat) (v : Byte) :
    (s.xorS k v).permCount = s.permCount := rfl

/-! ### `zeroS` -/

@[simp] theorem State.zeroS_S (s : State) :
    (s.zeroS).S = zeroBytes := rfl

@[simp] theorem State.zeroS_rate (s : State) :
    (s.zeroS).rate = s.rate := rfl

@[simp] theorem State.zeroS_cap (s : State) :
    (s.zeroS).cap = s.cap := rfl

@[simp] theorem State.zeroS_sfx (s : State) :
    (s.zeroS).sfx = s.sfx := rfl

@[simp] theorem State.zeroS_phase (s : State) :
    (s.zeroS).phase = s.phase := rfl

@[simp] theorem State.zeroS_b (s : State) :
    (s.zeroS).b = s.b := rfl

@[simp] theorem State.zeroS_q (s : State) :
    (s.zeroS).q = s.q := rfl

@[simp] theorem State.zeroS_errf (s : State) :
    (s.zeroS).errf = s.errf := rfl

@[simp] theorem State.zeroS_response (s : State) :
    (s.zeroS).response = s.response := rfl

@[simp] theorem State.zeroS_scratch (s : State) :
    (s.zeroS).scratch = s.scratch := rfl

@[simp] theorem State.zeroS_host (s : State) :
    (s.zeroS).host = s.host := rfl

@[simp] theorem State.zeroS_permCount (s : State) :
    (s.zeroS).permCount = s.permCount := rfl

/-! ### `permute` -/

@[simp] theorem State.permute_S (s : State) :
    (s.permute).S = keccakF s.S := rfl

@[simp] theorem State.permute_rate (s : State) :
    (s.permute).rate = s.rate := rfl

@[simp] theorem State.permute_cap (s : State) :
    (s.permute).cap = s.cap := rfl

@[simp] theorem State.permute_sfx (s : State) :
    (s.permute).sfx = s.sfx := rfl

@[simp] theorem State.permute_phase (s : State) :
    (s.permute).phase = s.phase := rfl

@[simp] theorem State.permute_b (s : State) :
    (s.permute).b = s.b := rfl

@[simp] theorem State.permute_q (s : State) :
    (s.permute).q = s.q := rfl

@[simp] theorem State.permute_errf (s : State) :
    (s.permute).errf = s.errf := rfl

@[simp] theorem State.permute_response (s : State) :
    (s.permute).response = s.response := rfl

@[simp] theorem State.permute_scratch (s : State) :
    (s.permute).scratch = Config.freeScratch s.permCount := rfl

@[simp] theorem State.permute_host (s : State) :
    (s.permute).host = s.host := rfl

@[simp] theorem State.permute_permCount (s : State) :
    (s.permute).permCount = s.permCount + 1 := rfl

/-! ### `offer` -/

@[simp] theorem State.offer_S (s : State) (c : ErrCode) (d : Word) :
    (s.offer c d).S = s.S := rfl

@[simp] theorem State.offer_rate (s : State) (c : ErrCode) (d : Word) :
    (s.offer c d).rate = s.rate := rfl

@[simp] theorem State.offer_cap (s : State) (c : ErrCode) (d : Word) :
    (s.offer c d).cap = s.cap := rfl

@[simp] theorem State.offer_sfx (s : State) (c : ErrCode) (d : Word) :
    (s.offer c d).sfx = s.sfx := rfl

@[simp] theorem State.offer_phase (s : State) (c : ErrCode) (d : Word) :
    (s.offer c d).phase = s.phase := rfl

@[simp] theorem State.offer_b (s : State) (c : ErrCode) (d : Word) :
    (s.offer c d).b = s.b := rfl

@[simp] theorem State.offer_q (s : State) (c : ErrCode) (d : Word) :
    (s.offer c d).q = s.q := rfl

@[simp] theorem State.offer_errf (s : State) (c : ErrCode) (d : Word) :
    (s.offer c d).errf = s.errf := rfl

@[simp] theorem State.offer_response (s : State) (c : ErrCode) (d : Word) :
    (s.offer c d).response = some { code := c, data := d } := rfl

@[simp] theorem State.offer_scratch (s : State) (c : ErrCode) (d : Word) :
    (s.offer c d).scratch = s.scratch := rfl

@[simp] theorem State.offer_host (s : State) (c : ErrCode) (d : Word) :
    (s.offer c d).host = s.host := rfl

@[simp] theorem State.offer_permCount (s : State) (c : ErrCode) (d : Word) :
    (s.offer c d).permCount = s.permCount := rfl

/-! ### `passEdge` -/

@[simp] theorem State.passEdge_S (s : State) :
    (s.passEdge).S = s.S := rfl

@[simp] theorem State.passEdge_rate (s : State) :
    (s.passEdge).rate = s.rate := rfl

@[simp] theorem State.passEdge_cap (s : State) :
    (s.passEdge).cap = s.cap := rfl

@[simp] theorem State.passEdge_sfx (s : State) :
    (s.passEdge).sfx = s.sfx := rfl

@[simp] theorem State.passEdge_phase (s : State) :
    (s.passEdge).phase = s.phase := rfl

@[simp] theorem State.passEdge_b (s : State) :
    (s.passEdge).b = s.b := rfl

@[simp] theorem State.passEdge_q (s : State) :
    (s.passEdge).q = s.q := rfl

@[simp] theorem State.passEdge_errf (s : State) :
    (s.passEdge).errf = s.errf := rfl

@[simp] theorem State.passEdge_response (s : State) :
    (s.passEdge).response = s.response := rfl

@[simp] theorem State.passEdge_scratch (s : State) :
    (s.passEdge).scratch = s.scratch := rfl

@[simp] theorem State.passEdge_host (s : State) :
    (s.passEdge).host = s.host.tail := rfl

@[simp] theorem State.passEdge_permCount (s : State) :
    (s.passEdge).permCount = s.permCount := rfl

/-! ### `resetEdge` -/

@[simp] theorem State.resetEdge_S (s : State) :
    s.resetEdge.S = State.reset.S := rfl

@[simp] theorem State.resetEdge_rate (s : State) :
    s.resetEdge.rate = State.reset.rate := rfl

@[simp] theorem State.resetEdge_cap (s : State) :
    s.resetEdge.cap = State.reset.cap := rfl

@[simp] theorem State.resetEdge_sfx (s : State) :
    s.resetEdge.sfx = State.reset.sfx := rfl

@[simp] theorem State.resetEdge_phase (s : State) :
    s.resetEdge.phase = State.reset.phase := rfl

@[simp] theorem State.resetEdge_b (s : State) :
    s.resetEdge.b = State.reset.b := rfl

@[simp] theorem State.resetEdge_q (s : State) :
    s.resetEdge.q = State.reset.q := rfl

@[simp] theorem State.resetEdge_errf (s : State) :
    s.resetEdge.errf = State.reset.errf := rfl

@[simp] theorem State.resetEdge_response (s : State) :
    s.resetEdge.response = State.reset.response := rfl

@[simp] theorem State.resetEdge_scratch (s : State) :
    s.resetEdge.scratch = State.reset.scratch := rfl

@[simp] theorem State.resetEdge_host (s : State) :
    s.resetEdge.host = s.host.tail := rfl

@[simp] theorem State.resetEdge_permCount (s : State) :
    s.resetEdge.permCount = s.permCount := rfl

/-! ### `recordError` -/

/-- The two cases of R235 in one record update. -/
theorem State.recordError_eq (s : State) (c : ErrCode) :
    s.recordError c = { s with errf := if s.errf = .ok then c else s.errf } := by
  cases s with
  | mk _ _ _ _ _ _ _ errf _ _ _ _ => cases errf <;> rfl

@[simp] theorem State.recordError_S (s : State) (c : ErrCode) :
    (s.recordError c).S = s.S := by rw [State.recordError_eq]

@[simp] theorem State.recordError_rate (s : State) (c : ErrCode) :
    (s.recordError c).rate = s.rate := by rw [State.recordError_eq]

@[simp] theorem State.recordError_cap (s : State) (c : ErrCode) :
    (s.recordError c).cap = s.cap := by rw [State.recordError_eq]

@[simp] theorem State.recordError_sfx (s : State) (c : ErrCode) :
    (s.recordError c).sfx = s.sfx := by rw [State.recordError_eq]

@[simp] theorem State.recordError_phase (s : State) (c : ErrCode) :
    (s.recordError c).phase = s.phase := by rw [State.recordError_eq]

@[simp] theorem State.recordError_b (s : State) (c : ErrCode) :
    (s.recordError c).b = s.b := by rw [State.recordError_eq]

@[simp] theorem State.recordError_q (s : State) (c : ErrCode) :
    (s.recordError c).q = s.q := by rw [State.recordError_eq]

@[simp] theorem State.recordError_errf (s : State) (c : ErrCode) :
    (s.recordError c).errf = if s.errf = .ok then c else s.errf := by rw [State.recordError_eq]

@[simp] theorem State.recordError_response (s : State) (c : ErrCode) :
    (s.recordError c).response = s.response := by rw [State.recordError_eq]

@[simp] theorem State.recordError_scratch (s : State) (c : ErrCode) :
    (s.recordError c).scratch = s.scratch := by rw [State.recordError_eq]

@[simp] theorem State.recordError_host (s : State) (c : ErrCode) :
    (s.recordError c).host = s.host := by rw [State.recordError_eq]

@[simp] theorem State.recordError_permCount (s : State) (c : ErrCode) :
    (s.recordError c).permCount = s.permCount := by rw [State.recordError_eq]

end Sys2Proof.Machine
end

