-- ==== Sys2Proof/Laws/Ops.lean ====
section
/-! SUPPORT. One lemma per shared operation, saying everything it can do. -/

namespace Sys2Proof.Machine

/-- No invariant is broken exactly when the three checks pass. -/
theorem inv_iff_checks (s : State) :
    s.Inv ↔ s.configLegal = true ∧ s.cursorsInRange = true ∧ s.idleIsZero = true := by
  unfold State.Inv State.broken
  cases s.configLegal <;> cases s.cursorsInRange <;> cases s.idleIsZero <;> simp

theorem configLegal_iff (s : State) :
    s.configLegal = true ↔
      8 ≤ s.rate.toNat ∧ s.rate.toNat % 8 = 0 ∧ s.rate.toNat + s.cap.toNat = 1600 := by
  simp [State.configLegal, and_assoc]

/-- The check of IDLE reads every byte. -/
theorem allZero_iff (S : StateBytes) :
    S.toList.all (· == 0#8) = true ↔ ∀ k, (h : k < 200) → S[k] = 0#8 := by
  rw [List.all_eq_true]
  constructor
  · intro h k hk
    simpa using h S[k] (by simp)
  · intro h v hv
    obtain ⟨k, hk, rfl⟩ := List.getElem_of_mem hv
    simpa using h k (by simpa using hk)

/-- `State.Inv` is the table of R37. -/
theorem inv_iff (s : State) : s.Inv ↔ StateInvariants s := by
  rw [inv_iff_checks, configLegal_iff]
  unfold StateInvariants State.cursorsInRange State.idleIsZero State.blockBytes
  cases hp : s.phase
  · simp only [Bool.and_eq_true, beq_iff_eq, allZero_iff, true_implies, reduceCtorEq, false_implies,
      and_true]
    constructor
    · rintro ⟨⟨h1, h2, h3⟩, ⟨h4, h5⟩, h6⟩
      exact ⟨⟨h1, by omega, h2⟩, h3, h4, h5, h6⟩
    · rintro ⟨⟨h1, -, h2⟩, h3, h4, h5, h6⟩
      exact ⟨⟨h1, h2, h3⟩, ⟨h4, h5⟩, h6⟩
  · simp only [Bool.and_eq_true, beq_iff_eq, decide_eq_true_eq, true_implies, reduceCtorEq,
      false_implies, and_true, true_and]
    constructor
    · rintro ⟨⟨h1, h2, h3⟩, h4, h5⟩
      exact ⟨⟨h1, by omega, h2⟩, h3, h4, h5⟩
    · rintro ⟨⟨h1, -, h2⟩, h3, h4, h5⟩
      exact ⟨⟨h1, h2, h3⟩, h4, h5⟩
  · simp only [Bool.and_eq_true, beq_iff_eq, decide_eq_true_eq, true_implies, reduceCtorEq,
      false_implies, and_true, true_and]
    constructor
    · rintro ⟨⟨h1, h2, h3⟩, h4, h5⟩
      exact ⟨⟨h1, by omega, h2⟩, h3, h4, h5⟩
    · rintro ⟨⟨h1, -, h2⟩, h3, h4, h5⟩
      exact ⟨⟨h1, h2, h3⟩, h4, h5⟩

/-- What a guarded outcome is. -/
theorem guardInv_of_inv {s : State} (h : s.Inv) (k : Result) : guardInv s k = k := by
  simp [guardInv, h]

theorem guardInv_of_broken {s : State} {f : Fault} (h : s.broken = some f) (k : Result) :
    guardInv s k = .fault f := by
  simp [guardInv, h]

/-- If the guard answers a next state, the invariants hold and the guarded outcome is that state. -/
theorem guardInv_next {s t : State} {k : Result} (h : guardInv s k = .next t) :
    s.Inv ∧ k = .next t := by
  unfold guardInv at h
  split at h
  · cases h
  · exact ⟨‹_›, h⟩

theorem respond_eq (d : Word) (s : State) :
    respond d s = .next { s with response := some { code := .ok, data := d } } := rfl

/-- `fail` writes ERRF, if it is 0, and the response; nothing else (R234, R235). -/
theorem fail_eq (c : ErrCode) (s : State) :
    fail c s = .next { s with
      errf := if s.errf = .ok then c else s.errf
      response := some { code := c, data := 0#32 } } := by
  simp [fail, State.recordError_eq, State.offer]

/-- A command in a phase where it is legal runs its own pseudocode. -/
theorem command_legal {i : Instr} {s : State} (hi : s.Inv) (hl : legalIn i s.phase = true)
    (body : State → Result) : command i s body = body s := by
  simp [command, guardInv_of_inv hi, hl]

/-- A command in a phase where it is not legal fails with SEQ. -/
theorem command_seq {i : Instr} {s : State} (hi : s.Inv) (hl : legalIn i s.phase = false)
    (body : State → Result) : command i s body = fail .seq s := by
  simp [command, guardInv_of_inv hi, hl]

/-- Everything a command can do when it answers a next state. -/
theorem command_next {i : Instr} {s t : State} {body : State → Result}
    (h : command i s body = .next t) :
    s.Inv ∧ ((legalIn i s.phase = true ∧ body s = .next t) ∨
      (legalIn i s.phase = false ∧ fail .seq s = .next t)) := by
  obtain ⟨hi, hk⟩ := guardInv_next h
  refine ⟨hi, ?_⟩
  cases hl : legalIn i s.phase
  · exact .inr ⟨rfl, by simpa [hl] using hk⟩
  · exact .inl ⟨rfl, by simpa [hl] using hk⟩

/-- A broken state stops every command. -/
theorem command_broken {i : Instr} {s : State} {f : Fault} (h : s.broken = some f)
    (body : State → Result) : command i s body = .fault f := by
  simp [command, guardInv_of_broken h]

/-- The body of a command, apart from the checks of `command`. -/
def execBody : Instr → State → Result
  | .nop => respond 0#32
  | .cfgRc rate cap => fun s =>
      if configAccepted rate cap then respond 0#32 { s with rate := rate, cap := cap }
      else fail .cfg s
  | .cfgSfx byte => fun s => respond 0#32 { s with sfx := byte }
  | .cfgK256 => fun s => respond 0#32 { s with rate := 1088#11, cap := 512#11, sfx := 0x01#8 }
  | .start => fun s => respond 0#32 { s.zeroS with b := 0#8, q := 0#8, phase := .absorb }
  | .absorb byte => fun s =>
      let s1 := s.xorS s.absorbOffset byte
      let s2 := { s1 with b := s1.b + 1#8 }
      respond 0#32 (if s2.blockFull then { s2.permute with b := 0#8 } else s2)
  | .final => fun s =>
      let s1 := s.xorS s.absorbOffset s.sfx
      let s2 := if s1.padSpecialCase then s1.permute else s1
      let s3 := (s2.xorS s2.lastRateOffset 0x80#8).permute
      respond 0#32 { s3 with b := 0#8, q := 0#8, phase := .squeeze }
  | .squeeze => fun s =>
      let s1 := if s.blockReadOut then { s.permute with q := 0#8 } else s
      respond (zext32 (s1.readS s1.squeezeOffset)) { s1 with q := s1.q + 1#8 }
  | .endHash => fun s => respond 0#32 { s.zeroS with b := 0#8, q := 0#8, phase := .idle }
  | .status sel => fun s =>
      match sel.toNat with
      | 0 => respond s.statusPhase s
      | 1 => respond s.statusConfig s
      | 2 => respond s.statusSuffix s
      | _ => fail .illegal s
  | .clrErr => fun s => respond 0#32 { s with errf := .ok }

/-- Every meaning is the shared checks around its body (R170). -/
theorem exec_eq_command (i : Instr) (s : State) : exec i s = command i s (execBody i) := by
  cases i <;> rfl

/-- A meaning that answers a next state started from the invariants of R37. -/
theorem exec_next {i : Instr} {s t : State} (h : exec i s = .next t) :
    s.Inv ∧ ((legalIn i s.phase = true ∧ execBody i s = .next t) ∨
      (legalIn i s.phase = false ∧ fail .seq s = .next t)) :=
  command_next (exec_eq_command i s ▸ h)

/-- Everything an accepted word can do when it answers a next state. -/
theorem execute_next {w : Word} {s t : State} (h : execute w s = .next t) :
    s.Inv ∧ ((∃ i, decode w = .ok i ∧ exec i s = .next t) ∨
      (∃ e, decode w = .error e ∧ fail .illegal s = .next t)) := by
  unfold execute at h
  split at h
  · next i hd => exact ⟨(exec_next h).1, .inl ⟨i, hd, h⟩⟩
  · next e hd => exact ⟨(guardInv_next h).1, .inr ⟨e, hd, (guardInv_next h).2⟩⟩

/-- Everything a step can do when it answers a next state: reset, a command, or a quiet edge. -/
theorem step_next {s t : State} (h : step s = .next t) :
    (s.pins.rst = true ∧ t = s.resetEdge) ∨
    (s.pins.rst = false ∧ s.pins.cmdValid = true ∧ s.response = none ∧
      execute s.pins.cmdWord s.passEdge = .next t) ∨
    (s.pins.rst = false ∧ s.cmdTransfers s.pins = false ∧ s.Inv ∧
      t = if s.rspTransfers s.pins then { s.passEdge with response := none } else s.passEdge) := by
  unfold step at h
  cases hr : s.pins.rst <;> simp only [hr, if_true, if_false, Bool.false_eq_true] at h
  · cases hc : s.cmdTransfers s.pins <;> simp only [hc, if_true, if_false, Bool.false_eq_true] at h
    · obtain ⟨hi, hk⟩ := guardInv_next h
      exact .inr (.inr ⟨rfl, rfl, hi, by cases hk; rfl⟩)
    · refine .inr (.inl ⟨rfl, ?_, ?_, h⟩) <;>
        simp only [State.cmdTransfers, State.cmdReady, hr, Bool.and_eq_true, Option.isNone_iff_eq_none] at hc
      · exact hc.1
      · exact hc.2.2
  · cases h
    exact .inl ⟨rfl, rfl⟩

end Sys2Proof.Machine
end

