-- ==== Sys2Proof/Laws/PerInstr.lean ====
section
/-! SUPPORT. Statements made of every constructor of `Instr`, one lemma each. Family `OpcodeRow`: the
encoded word agrees with the command's row of spec/opcode_table.json. -/

namespace Sys2Proof.Laws.OpcodeRow

/-- The row's "mask". -/
def rowMask : Instr → Word
  | .nop => 0xFFFFFFFF#32
  | .cfgRc _ _ => 0xFFC00000#32
  | .cfgSfx _ => 0xFFFFFF00#32
  | .cfgK256 => 0xFFFFFFFF#32
  | .start => 0xFFFFFFFF#32
  | .absorb _ => 0xFFFFFF00#32
  | .final => 0xFFFFFFFF#32
  | .squeeze => 0xFFFFFFFF#32
  | .endHash => 0xFFFFFFFF#32
  | .status _ => 0xFFFFFFFC#32
  | .clrErr => 0xFFFFFFFF#32

/-- The row's "match". -/
def rowMatch : Instr → Word
  | .nop => 0x00000000#32
  | .cfgRc _ _ => 0x10000000#32
  | .cfgSfx _ => 0x20000000#32
  | .cfgK256 => 0x30000000#32
  | .start => 0x40000000#32
  | .absorb _ => 0x50000000#32
  | .final => 0x60000000#32
  | .squeeze => 0x70000000#32
  | .endHash => 0x80000000#32
  | .status _ => 0x90000000#32
  | .clrErr => 0xA0000000#32

/-- The encoded word has the fixed bits of the command's row. -/
def Statement (i : Instr) : Prop := encode i &&& rowMask i = rowMatch i

theorem nop : Statement .nop := by unfold Statement; decide

theorem cfgRc (rate cap : BitVec 11) : Statement (.cfgRc rate cap) := by
  apply BitVec.eq_of_getLsbD_eq
  intro i hi
  simp only [encode, placed, rowMask, rowMatch]
  interval_cases i <;> simp

theorem cfgSfx (byte : Byte) : Statement (.cfgSfx byte) := by
  apply BitVec.eq_of_getLsbD_eq
  intro i hi
  simp only [encode, placed, rowMask, rowMatch]
  interval_cases i <;> simp

theorem cfgK256 : Statement .cfgK256 := by unfold Statement; decide

theorem start : Statement .start := by unfold Statement; decide

theorem absorb (byte : Byte) : Statement (.absorb byte) := by
  apply BitVec.eq_of_getLsbD_eq
  intro i hi
  simp only [encode, placed, rowMask, rowMatch]
  interval_cases i <;> simp

theorem final : Statement .final := by unfold Statement; decide

theorem squeeze : Statement .squeeze := by unfold Statement; decide

theorem endHash : Statement .endHash := by unfold Statement; decide

theorem status (sel : BitVec 2) : Statement (.status sel) := by
  apply BitVec.eq_of_getLsbD_eq
  intro i hi
  simp only [encode, placed, rowMask, rowMatch]
  interval_cases i <;> simp

theorem clrErr : Statement .clrErr := by unfold Statement; decide

end Sys2Proof.Laws.OpcodeRow
end

