-- ==== Sys2Proof/Laws/Step.lean ====
section
/-! SUPPORT. What a step and a transaction do, once, from what the accepted word does. -/

namespace Sys2Proof.Machine

/-- Every meaning leaves the host's moves alone and leaves one response. -/
theorem execBody_frame (i : Instr) (s t : State) (h : execBody i s = .next t) :
    t.host = s.host ∧ ∃ r, t.response = some r := by
  cases i with
  | cfgRc rate cap =>
    simp only [execBody] at h
    split at h <;> cases h
    · exact ⟨rfl, _, rfl⟩
    · exact ⟨by simp, _, rfl⟩
  | absorb d =>
    cases h
    refine ⟨?_, _, rfl⟩
    simp only [State.offer]
    split <;> rfl
  | final =>
    cases h
    refine ⟨?_, _, rfl⟩
    simp only [State.offer, State.permute_host, State.xorS_host]
    split <;> rfl
  | squeeze =>
    cases h
    refine ⟨?_, _, rfl⟩
    simp only [State.offer]
    split <;> rfl
  | status sel =>
    simp only [execBody] at h
    split at h <;> cases h
    · exact ⟨rfl, _, rfl⟩
    · exact ⟨rfl, _, rfl⟩
    · exact ⟨rfl, _, rfl⟩
    · exact ⟨by simp, _, rfl⟩
  | nop => cases h; exact ⟨rfl, _, rfl⟩
  | cfgSfx v => cases h; exact ⟨rfl, _, rfl⟩
  | cfgK256 => cases h; exact ⟨rfl, _, rfl⟩
  | start => cases h; exact ⟨rfl, _, rfl⟩
  | endHash => cases h; exact ⟨rfl, _, rfl⟩
  | clrErr => cases h; exact ⟨rfl, _, rfl⟩

/-- An error leaves the host's moves alone and leaves one response. -/
theorem fail_frame {c : ErrCode} {s t : State} (h : fail c s = .next t) :
    t.host = s.host ∧ ∃ r, t.response = some r := by
  rw [fail_eq] at h
  cases h
  exact ⟨rfl, _, rfl⟩

/-- Every accepted word leaves the host's moves alone and leaves one response (R92). -/
theorem execute_frame {w : Word} {s t : State} (h : execute w s = .next t) :
    t.host = s.host ∧ ∃ r, t.response = some r := by
  rcases (execute_next h).2 with ⟨i, -, h⟩ | ⟨e, -, h⟩
  · rcases (exec_next h).2 with ⟨-, h⟩ | ⟨-, h⟩
    · exact execBody_frame i s t h
    · exact fail_frame h
  · exact fail_frame h

/-- A word offered while no command is in flight is accepted and run (R265). -/
theorem step_offer (s : State) (w : Word) (rest : List HostPins) (hr : s.response = none) :
    step { s with host := HostPins.offer w :: rest } = execute w { s with host := rest } := by
  simp [step, State.pins, State.cmdTransfers, State.cmdReady, HostPins.offer, hr, State.passEdge]

/-- A response offered is taken by a host that is ready for it (R266). -/
theorem step_take (s : State) (rest : List HostPins) (hi : s.Inv) (r : Response)
    (hr : s.response = some r) (hh : s.host = HostPins.take :: rest) :
    step s = .next { s with host := rest, response := none } := by
  have hp : s.pins = HostPins.take := by simp [State.pins, hh]
  simp [step, hp, State.cmdTransfers, State.rspTransfers, State.rspValid, HostPins.take, hr, quietEdge,
    guardInv_of_inv hi, State.passEdge, hh]

/-- A transaction is the word's execution and the taking of its response. -/
theorem transact_of_execute {s t : State} {w : Word} {r : Response} (hr : s.response = none)
    (h : execute w { s with host := [HostPins.take] } = .next t) (ht : t.Inv)
    (hrt : t.response = some r) :
    transact w s = some (r, { t with host := [], response := none }) := by
  have hh : t.host = [HostPins.take] := (execute_frame h).1
  have hp : t.pins = HostPins.take := by simp [State.pins, hh]
  have hport : t.rspPort t.pins = some r := by
    simp [State.rspPort, State.rspValid, hp, HostPins.take, hrt]
  simp only [transact, step_offer s w [HostPins.take] hr, h, hport, step_take t [] ht r hrt hh]

end Sys2Proof.Machine
end

