-- ==== Sys2Proof/Tests/Slice0.lean ====
section
/-! SUPPORT. The model's own tests. Expected values are the spec's: spec/30_encoding.md R98,
spec/95_test_vectors.md (named where used) and the examples of the command rules. Then, for every
statement with hypotheses, a witness that meets them. -/

namespace Sys2Proof.Tests
open Sys2Proof.Machine

/-! ## Small states -/

/-- The reset state with another phase and cursors: the profile of R175, R = 136. -/
def profileAt (p : Phase) (b q : Byte) : State := { State.reset with phase := p, b := b, q := q }

/-- The reset state with another rate, in a phase. -/
def rateAt (rate cap : BitVec 11) (p : Phase) (b q : Byte) : State :=
  { State.reset with rate := rate, cap := cap, phase := p, b := b, q := q }

/-- The response a command leaves. -/
def answer (r : Result) : Option Response :=
  match r with
  | .next t => t.response
  | .fault _ => none
  | .refused _ => none

/-- One field of the next state. -/
def after {α : Type} (f : State → α) (r : Result) : Option α :=
  match r with
  | .next t => some (f t)
  | .fault _ => none
  | .refused _ => none

/-- The response to a word, and ERRF after it. -/
def outcome (w : Word) (s : State) : Option (Option Response × ErrCode) :=
  after (fun t => (t.response, t.errf)) (execute w s)

/-! ## WellFormed: the one check, and a term that fails it -/

theorem test_wellFormed_refuses_status_three : ¬WellFormed (.status 3#2) := by decide
theorem test_wellFormed_accepts_status_two : WellFormed (.status 2#2) := by decide

/-! ## Decoding: the words of R98 and V-ENC, one for each command -/

theorem test_decode_nop : decode 0x00000000#32 = .ok .nop := by rfl
theorem test_decode_cfgRc : decode 0x10008630#32 = .ok (.cfgRc 16#11 1584#11) := by rfl
theorem test_decode_cfgSfx : decode 0x20000006#32 = .ok (.cfgSfx 0x06#8) := by rfl
theorem test_decode_cfgK256 : decode 0x30000000#32 = .ok .cfgK256 := by rfl
theorem test_decode_start : decode 0x40000000#32 = .ok .start := by rfl
theorem test_decode_absorb : decode 0x50000061#32 = .ok (.absorb 0x61#8) := by rfl
theorem test_decode_final : decode 0x60000000#32 = .ok .final := by rfl
theorem test_decode_squeeze : decode 0x70000000#32 = .ok .squeeze := by rfl
theorem test_decode_end : decode 0x80000000#32 = .ok .endHash := by rfl
theorem test_decode_status : decode 0x90000002#32 = .ok (.status 2#2) := by rfl
theorem test_decode_clrErr : decode 0xA0000000#32 = .ok .clrErr := by rfl
theorem test_decode_reserved_opcode : decode 0xFFFFFFFF#32 = .error .reservedOpcode := by rfl
theorem test_decode_reserved_bit : decode 0x10620200#32 = .error .reservedBits := by rfl
theorem test_decode_status_three : decode 0x90000003#32 = .error .statusSelector := by rfl
theorem test_decodeTableWord : decodeTableWord 32 0x10220200 = some (.cfgRc 1088#11 512#11) := by rfl

/-! ## Commands (V-CMD and the examples of R172 to R182) -/

theorem test_nop_illegal_bit : outcome 0x00000001#32 State.reset =
    some (some ⟨.illegal, 0#32⟩, .illegal) := by decide
theorem test_cfgRc_accepts_1600 : after (fun t => (t.rate, t.cap, t.response))
    (execute 0x10320000#32 State.reset) = some (1600#11, 0#11, some ⟨.ok, 0#32⟩) := by decide
theorem test_cfgRc_rejects_1087 : after (fun t => (t.rate, t.errf, t.response))
    (execute 0x1021FA01#32 State.reset) = some (1088#11, .cfg, some ⟨.cfg, 0#32⟩) := by decide
theorem test_cfgSfx_any_byte : after (fun t => (t.sfx, t.response))
    (execute 0x200000FF#32 State.reset) = some (0xFF#8, some ⟨.ok, 0#32⟩) := by decide
theorem test_cfgSfx_out_of_phase : outcome 0x20000006#32 (profileAt .absorb 0#8 0#8) =
    some (some ⟨.seq, 0#32⟩, .seq) := by decide
theorem test_cfgK256_restores_the_profile : after (fun t => (t.rate, t.cap, t.sfx))
    (exec .cfgK256 (rateAt 576#11 1024#11 .idle 0#8 0#8)) = some (1088#11, 512#11, 0x01#8) := by decide
theorem test_start_from_squeeze : after (fun t => (t.phase, t.b, t.q, t.statusPhase))
    (exec .start (profileAt .squeeze 0#8 7#8)) =
    some (.absorb, 0#8, 0#8, 0x00000001#32) := by decide
theorem test_absorb_first_byte : after (fun t => (t.readS 0, t.b))
    (exec (.absorb 0x61#8) (profileAt .absorb 0#8 0#8)) = some (0x61#8, 1#8) := by decide +kernel
theorem test_absorb_in_idle : outcome 0x50000061#32 State.reset =
    some (some ⟨.seq, 0#32⟩, .seq) := by decide
theorem test_final_out_of_phase : outcome 0x60000000#32 (profileAt .squeeze 0#8 0#8) =
    some (some ⟨.seq, 0#32⟩, .seq) := by decide
theorem test_squeeze_second_byte : after (fun t => (t.response, t.q))
    (exec .squeeze { profileAt .squeeze 0#8 1#8 with S := xorByte zeroBytes 1 0xC5#8 }) =
    some (some ⟨.ok, 0x000000C5#32⟩, 2#8) := by decide +kernel
theorem test_end_zeroes : after (fun t => (t.phase, t.readS 5, t.rate))
    (exec .endHash { profileAt .squeeze 0#8 3#8 with S := xorByte zeroBytes 5 0xAA#8 }) =
    some (.idle, 0x00#8, 1088#11) := by decide +kernel
theorem test_status_one_after_reset : answer (execute 0x90000001#32 State.reset) =
    some ⟨.ok, 0x02000440#32⟩ := by decide
theorem test_status_zero_fields : answer
    (exec (.status 0#2) { profileAt .squeeze 0#8 0x88#8 with errf := .seq }) =
    some ⟨.ok, 0x00880022#32⟩ := by decide
theorem test_clrErr : outcome 0xA0000000#32 { State.reset with errf := .cfg } =
    some (some ⟨.ok, 0#32⟩, .ok) := by decide
theorem test_clrErr_illegal_keeps_errf : outcome 0xA0000001#32 { State.reset with errf := .seq } =
    some (some ⟨.illegal, 0#32⟩, .seq) := by decide

/-! ## Ports -/

theorem test_step_runs_the_word : after (fun t => (t.response, t.sfx, t.host))
    (step (State.reset.withFetchWord 32 0x20000006)) =
    some (some ⟨.ok, 0#32⟩, 0x06#8, []) := by decide
theorem test_transact_takes_the_response :
    (transact 0x90000002#32 State.reset).map (fun p => (p.1, p.2.response)) =
    some (⟨.ok, 0x00000001#32⟩, none) := by decide

/-! ## Round constants and the permutation (V-LFSR, V-THETA, V-RHOPI, V-CHI, V-PERM, V-HASH) -/

theorem test_lfsr_feedback : lfsrStep 0x80#8 = (0x71#8, false) := by decide
theorem test_round_constant_two : roundConstant 2 = 0x800000000000808A#64 := by decide +kernel

/-- Lane i holds i (V-ROUND0). -/
def countingLanes : Lanes := Vector.ofFn fun i => BitVec.ofNat 64 i.val

theorem test_theta_counting : laneAt (theta countingLanes) 1 0 = 0x9#64 := by decide +kernel
theorem test_rhoPi_ones : laneAt (rhoPi (Vector.replicate 25 1#64)) 4 1 = 0x2000000000000000#64 := by
  decide +kernel
theorem test_chi_row : (List.finRange 5).map (fun x => laneAt
    (chi (buildLanes fun x y => if y = 0 then 1#64 <<< x.val else 0#64)) x 0) =
    [0x5#64, 0xA#64, 0x14#64, 0x9#64, 0x12#64] := by decide +kernel
theorem test_round_zero : laneAt (keccakRound (countingLanes, lfsrSeed)).1 4 3 =
    0x090001F000000000#64 := by decide +kernel

set_option maxRecDepth 100000 in
/-- V-PERM-1. -/
theorem test_keccakLanes_zero :
    (keccakLanes (Vector.replicate 25 0#64)).toList.take 5 =
    [0xF1258F7940E1DDE7#64, 0x84D5CCF933C0478A#64, 0xD598261EA65AA9EE#64, 0xBD1547306F80494D#64,
     0x8B284E056253D057#64] := by decide +kernel

set_option maxRecDepth 100000 in
/-- V-HASH-1: FINAL right after START leaves the digest of the empty message in the first 32 bytes. -/
theorem test_final_empty_message :
    after (fun t => (lanesOfBytes t.S).toList.take 4) (exec .final (profileAt .absorb 0#8 0#8)) =
    some [0x3C23F7860146D2C5#64, 0xC003C7DCB27D7E92#64, 0x3B2782CA53B600E5#64,
      0x70A4855D04D8FA7B#64] := by decide +kernel

/-! ## The assembler (R96 to R98) -/

theorem test_assemble_cfgRc : Asm.assemble "CFG_RC 1088, 0x200 ; the profile".toList =
    some [0x10220200#32] := by decide +kernel
theorem test_assemble_absorbs : Asm.assemble "ABSORBS 0x61, \";b\"".toList =
    some [0x50000061#32, 0x5000003B#32, 0x50000062#32] := by decide +kernel
theorem test_assemble_out_of_range : Asm.assemble "STATUS 3".toList = none := by decide +kernel
theorem test_assemble_quote_in_text : Asm.assemble "ABSORBS \"a\"b\"".toList = none := by
  decide +kernel
theorem test_assemble_hash_no_bytes : Asm.assemble "HASH 16, 1584, 0x80, 0".toList =
    some [0x80000000#32, 0x10008630#32, 0x20000080#32, 0x40000000#32, 0x60000000#32] := by
  decide +kernel
theorem test_assemble_hash : Asm.assemble "HASH 16, 1584, 0x80, 0xAA, 1".toList =
    some [0x80000000#32, 0x10008630#32, 0x20000080#32, 0x40000000#32, 0x500000AA#32,
      0x60000000#32, 0x70000000#32] := by decide +kernel

/-! ## Witnesses: a state and operands that meet the hypotheses of each statement -/

theorem inv_of_check {s : State} (h : s.broken = none) : StateInvariants s := (inv_iff s).1 h

theorem inv_reset : StateInvariants State.reset := inv_of_check (by decide)
theorem inv_absorbing : StateInvariants (profileAt .absorb 0#8 0#8) := inv_of_check (by decide)
theorem inv_squeezing : StateInvariants (profileAt .squeeze 0#8 0#8) := inv_of_check (by decide)
/-- B = R - 1, the last byte of a block. -/
theorem inv_last_byte : StateInvariants (profileAt .absorb 135#8 0#8) := inv_of_check (by decide)
/-- Q = R, the block read out. -/
theorem inv_read_out : StateInvariants (profileAt .squeeze 0#8 136#8) := inv_of_check (by decide)
/-- The shortest rate, R = 1. -/
theorem inv_rate_one : StateInvariants (rateAt 8#11 1592#11 .absorb 0#8 0#8) :=
  inv_of_check (by decide)
/-- The longest rate, R = 200. -/
theorem inv_rate_all : StateInvariants (rateAt 1600#11 0#11 .squeeze 0#8 200#8) :=
  inv_of_check (by decide)

/-- A state whose host offers a word at the next edge. -/
def offering (w : Word) : State := { State.reset with host := [HostPins.offer w] }

/-- A state with a response that waits to be taken. -/
def waitingResponse : State := { State.reset with response := some ⟨.ok, 0#32⟩ }

theorem witness_DecodeOfEncodeIsTheCommand :
    WellFormed (.cfgRc 2047#11 2047#11) ∧ WellFormed (.status 2#2) := by decide
theorem witness_EncodeOfDecodeIsTheWord : decode 0x103FFFFF#32 = .ok (.cfgRc 2047#11 2047#11) := by rfl
/-- One word for each clause of `ReservedWord`, at the ends of its range. -/
theorem witness_ReservedWord : ReservedWord 0xB0000000#32 ∧ ReservedWord 0xFFFFFFFF#32 ∧
    ReservedWord 0x00000001#32 ∧ ReservedWord 0xAFFFFFFF#32 := by decide
theorem witness_ReservedWord_operands : ReservedWord 0x10400000#32 ∧ ReservedWord 0x20000100#32 ∧
    ReservedWord 0x5FFFFF00#32 := by decide
theorem witness_ReservedWord_status : ReservedWord 0x90000004#32 ∧ ReservedWord 0x90000003#32 := by
  decide
theorem witness_not_ReservedWord : ¬ReservedWord 0x103FFFFF#32 ∧ ¬ReservedWord 0x500000FF#32 ∧
    ¬ReservedWord 0x90000002#32 ∧ ¬ReservedWord 0xA0000000#32 := by decide
theorem witness_IllegalWordsFailWithIllegal :
    StateInvariants State.reset ∧ ReservedWord 0xFFFFFFFF#32 :=
  ⟨inv_reset, witness_ReservedWord.2.1⟩
theorem witness_ResetValues : ({ HostPins.quiet with rst := true } : HostPins).rst = true := rfl
theorem witness_ResetFromAnyState :
    ({ waitingResponse with host := [{ HostPins.take with rst := true }] } : State).pins.rst = true := rfl
theorem witness_StepKeepsTheInvariants :
    StateInvariants State.reset ∧ step State.reset = .next State.reset := ⟨inv_reset, rfl⟩
theorem witness_BrokenStateFaults :
    ¬StateInvariants (profileAt .idle 1#8 0#8) ∧ (profileAt .idle 1#8 0#8).pins.rst = false :=
  ⟨fun h => absurd ((inv_iff _).2 h) (by decide), rfl⟩
theorem witness_EveryRunGoesOn : StateInvariants (profileAt .absorb 135#8 0#8) := inv_last_byte
theorem witness_StepRunsTheDecodedCommand :
    (offering 0x50000061#32).response = none ∧ (offering 0x50000061#32).pins.rst = false ∧
    (offering 0x50000061#32).pins.cmdValid = true ∧
    decode (offering 0x50000061#32).pins.cmdWord = .ok (.absorb 0x61#8) ∧
    decodeTableWord 32 0x50000061 = some (.absorb 0x61#8) := ⟨rfl, rfl, rfl, rfl, rfl⟩
/-- An illegal word at the port: STATUS with SEL = 3. -/
theorem witness_StepRunsTheDecodedCommand_illegal :
    (offering 0x90000003#32).response = none ∧ (offering 0x90000003#32).pins.rst = false ∧
    (offering 0x90000003#32).pins.cmdValid = true ∧ StateInvariants (offering 0x90000003#32) ∧
    ReservedWord (offering 0x90000003#32).pins.cmdWord :=
  ⟨rfl, rfl, rfl, inv_of_check (by decide), witness_ReservedWord_status.2⟩
theorem witness_BusyEngineTakesNoWord :
    StateInvariants waitingResponse ∧ waitingResponse.response = some ⟨.ok, 0#32⟩ ∧
    waitingResponse.pins.rst = false := ⟨inv_of_check (by decide), rfl, rfl⟩
theorem witness_WaitingEngineKeepsItsState :
    StateInvariants State.reset ∧ State.reset.response = none ∧ State.reset.pins.rst = false ∧
    State.reset.pins.cmdValid = false := ⟨inv_reset, rfl, rfl, rfl⟩
theorem witness_EveryAcceptedWordIsAnswered :
    (offering 0xB0000000#32).pins.rst = false ∧ (offering 0xB0000000#32).pins.cmdValid = true ∧
    (offering 0xB0000000#32).response = none ∧
    after (·.response) (step (offering 0xB0000000#32)) = some (some ⟨.illegal, 0#32⟩) := by decide
theorem witness_PhaseTable :
    StateInvariants State.reset ∧ State.reset.phase ≠ .absorb ∧ State.reset.phase ≠ .squeeze ∧
    StateInvariants (profileAt .absorb 0#8 0#8) ∧ (profileAt .absorb 0#8 0#8).phase ≠ .idle :=
  ⟨inv_reset, by decide, by decide, inv_absorbing, by decide⟩
theorem witness_ErrorPriority :
    StateInvariants (profileAt .absorb 0#8 0#8) ∧ ReservedWord 0x10400000#32 ∧
    decode 0x101F6254#32 = .ok (.cfgRc 1004#11 596#11) ∧
    (profileAt .absorb 0#8 0#8).phase ≠ .idle ∧ State.reset.phase = .idle ∧
    ¬LegalConfig 1004#11 596#11 :=
  ⟨inv_absorbing, witness_ReservedWord_operands.1, rfl, by decide, rfl, by decide⟩
theorem witness_ErrorsWriteOnlyErrf :
    outcome 0x70000000#32 State.reset = some (some ⟨.seq, 0#32⟩, .seq) := by decide
theorem witness_FirstErrorIsSticky :
    outcome 0x70000000#32 State.reset = some (some ⟨.seq, 0#32⟩, .seq) ∧
    outcome 0x70000000#32 { State.reset with errf := .cfg } = some (some ⟨.seq, 0#32⟩, .cfg) ∧
    outcome 0x00000000#32 { State.reset with errf := .cfg } = some (some ⟨.ok, 0#32⟩, .cfg) ∧
    outcome 0xA0000000#32 { State.reset with errf := .cfg } = some (some ⟨.ok, 0#32⟩, .ok) := by decide
theorem witness_FirstErrorIsSticky_reset : after (·.errf)
    (step { State.reset with errf := .cfg, host := [{ HostPins.quiet with rst := true }] }) =
    some .ok := by decide
theorem witness_ErrorsByCommand :
    WellFormed (.cfgRc 1004#11 596#11) ∧
    answer (exec (.cfgRc 1004#11 596#11) State.reset) = some ⟨.cfg, 0#32⟩ := by decide
theorem witness_NopChangesNothing :
    StateInvariants State.reset ∧ opcodeNumber 0x00000001#32 = 0x0 ∧
    belowOpcode 0x00000001#32 ≠ 0 := ⟨inv_reset, by decide, by decide⟩
theorem witness_CfgRcSetsALegalConfiguration :
    StateInvariants State.reset ∧ State.reset.phase = .idle ∧ LegalConfig 8#11 1592#11 ∧
    LegalConfig 1600#11 0#11 ∧ ¬LegalConfig 0#11 1600#11 ∧ ¬LegalConfig 1087#11 513#11 ∧
    ¬LegalConfig 2040#11 0#11 ∧ opcodeNumber 0x10620200#32 = 0x1 ∧
    belowOpcode 0x10620200#32 / 2 ^ 22 ≠ 0 ∧ belowOpcode 0x103FFFFF#32 / 2 ^ 22 = 0 := by
  refine ⟨inv_reset, ?_⟩
  decide
theorem witness_CfgSfxSetsTheSuffix :
    StateInvariants State.reset ∧ State.reset.phase = .idle ∧
    StateInvariants (profileAt .squeeze 0#8 0#8) ∧ (profileAt .squeeze 0#8 0#8).phase ≠ .idle ∧
    opcodeNumber 0x20000100#32 = 0x2 ∧ belowOpcode 0x20000100#32 / 2 ^ 8 ≠ 0 ∧
    belowOpcode 0x200000FF#32 / 2 ^ 8 = 0 :=
  ⟨inv_reset, rfl, inv_squeezing, by decide, by decide, by decide, by decide⟩
theorem witness_CfgK256LoadsTheProfile :
    StateInvariants (rateAt 8#11 1592#11 .idle 0#8 0#8) ∧
    (rateAt 8#11 1592#11 .idle 0#8 0#8).phase = .idle ∧
    StateInvariants (profileAt .absorb 0#8 0#8) ∧ (profileAt .absorb 0#8 0#8).phase ≠ .idle ∧
    opcodeNumber 0x38000000#32 = 0x3 ∧ belowOpcode 0x38000000#32 ≠ 0 :=
  ⟨inv_of_check (by decide), rfl, inv_absorbing, by decide, by decide, by decide⟩
theorem witness_StartBeginsAHash :
    StateInvariants (profileAt .squeeze 0#8 136#8) ∧ opcodeNumber 0x40000001#32 = 0x4 ∧
    belowOpcode 0x40000001#32 ≠ 0 := ⟨inv_read_out, by decide, by decide⟩
theorem witness_StartForgetsThePast :
    StateInvariants State.reset ∧ StateInvariants (profileAt .squeeze 0#8 136#8) ∧
    State.reset.rate = (profileAt .squeeze 0#8 136#8).rate ∧
    State.reset.cap = (profileAt .squeeze 0#8 136#8).cap ∧
    State.reset.sfx = (profileAt .squeeze 0#8 136#8).sfx ∧
    State.reset.errf = (profileAt .squeeze 0#8 136#8).errf :=
  ⟨inv_reset, inv_read_out, rfl, rfl, rfl, rfl⟩
theorem witness_AbsorbXorsOneByte :
    (StateInvariants (profileAt .absorb 0#8 0#8) ∧ (profileAt .absorb 0#8 0#8).phase = .absorb ∧
      (profileAt .absorb 0#8 0#8).b.toNat + 1 < (profileAt .absorb 0#8 0#8).rate.toNat / 8) ∧
    (StateInvariants (rateAt 8#11 1592#11 .absorb 0#8 0#8) ∧
      (rateAt 8#11 1592#11 .absorb 0#8 0#8).b.toNat + 1 =
        (rateAt 8#11 1592#11 .absorb 0#8 0#8).rate.toNat / 8) ∧
    (StateInvariants (profileAt .absorb 135#8 0#8) ∧ (profileAt .absorb 135#8 0#8).b.toNat + 1 =
      (profileAt .absorb 135#8 0#8).rate.toNat / 8) ∧
    State.reset.phase ≠ .absorb ∧
    opcodeNumber 0x50000100#32 = 0x5 ∧ belowOpcode 0x50000100#32 / 2 ^ 8 ≠ 0 ∧
    belowOpcode 0x500000FF#32 / 2 ^ 8 = 0 :=
  ⟨⟨inv_absorbing, rfl, by decide⟩, ⟨inv_rate_one, by decide⟩, ⟨inv_last_byte, by decide⟩,
    by decide, by decide, by decide, by decide⟩
theorem witness_AbsorbChangesOneByteOfTheRate :
    StateInvariants (profileAt .absorb 134#8 0#8) ∧ (profileAt .absorb 134#8 0#8).phase = .absorb ∧
    (profileAt .absorb 134#8 0#8).b.toNat + 1 < (profileAt .absorb 134#8 0#8).rate.toNat / 8 ∧
    after (·.b) (exec (.absorb 1#8) (profileAt .absorb 134#8 0#8)) = some 135#8 :=
  ⟨inv_of_check (by decide), rfl, by decide, by decide⟩
theorem witness_FinalPadsAndPermutes :
    (StateInvariants (profileAt .absorb 0#8 0#8) ∧ (profileAt .absorb 0#8 0#8).phase = .absorb) ∧
    (StateInvariants { profileAt .absorb 135#8 0#8 with sfx := 0x80#8 } ∧
      0x80 ≤ ({ profileAt .absorb 135#8 0#8 with sfx := 0x80#8 } : State).sfx.toNat ∧
      ({ profileAt .absorb 135#8 0#8 with sfx := 0x80#8 } : State).b.toNat + 1 =
        ({ profileAt .absorb 135#8 0#8 with sfx := 0x80#8 } : State).rate.toNat / 8) ∧
    State.reset.phase ≠ .absorb ∧ opcodeNumber 0x60000001#32 = 0x6 ∧
    belowOpcode 0x60000001#32 ≠ 0 :=
  ⟨⟨inv_absorbing, rfl⟩, ⟨inv_of_check (by decide), by decide, by decide⟩, by decide, by decide,
    by decide⟩
theorem witness_SqueezeReturnsOneByte :
    (StateInvariants (profileAt .squeeze 0#8 135#8) ∧ (profileAt .squeeze 0#8 135#8).phase = .squeeze ∧
      (profileAt .squeeze 0#8 135#8).q.toNat < (profileAt .squeeze 0#8 135#8).rate.toNat / 8) ∧
    (StateInvariants (rateAt 1600#11 0#11 .squeeze 0#8 200#8) ∧
      (rateAt 1600#11 0#11 .squeeze 0#8 200#8).q.toNat =
        (rateAt 1600#11 0#11 .squeeze 0#8 200#8).rate.toNat / 8) ∧
    State.reset.phase ≠ .squeeze ∧ opcodeNumber 0x7FFFFFFF#32 = 0x7 ∧
    belowOpcode 0x7FFFFFFF#32 ≠ 0 :=
  ⟨⟨inv_of_check (by decide), rfl, by decide⟩, ⟨inv_rate_all, by decide⟩, by decide, by decide,
    by decide⟩
theorem witness_EndDiscardsTheComputation :
    StateInvariants (profileAt .squeeze 0#8 136#8) ∧ State.reset.phase = .idle ∧
    opcodeNumber 0x80000001#32 = 0x8 ∧ belowOpcode 0x80000001#32 ≠ 0 :=
  ⟨inv_read_out, rfl, by decide, by decide⟩
theorem witness_StatusReadsTheRegisters :
    StateInvariants { profileAt .squeeze 0#8 136#8 with errf := .cfg } ∧
    opcodeNumber 0x90000003#32 = 0x9 ∧ belowOpcode 0x90000003#32 % 2 ^ 2 = 3 ∧
    belowOpcode 0x90000004#32 / 2 ^ 2 ≠ 0 ∧ belowOpcode 0x90000002#32 / 2 ^ 2 = 0 ∧
    belowOpcode 0x90000002#32 % 2 ^ 2 ≠ 3 :=
  ⟨inv_of_check (by decide), by decide, by decide, by decide, by decide, by decide⟩
theorem witness_ClrErrClearsTheStickyError :
    StateInvariants { State.reset with errf := .illegal } ∧ State.reset.errf = .ok ∧
    opcodeNumber 0xA0000001#32 = 0xA ∧ belowOpcode 0xA0000001#32 ≠ 0 :=
  ⟨inv_of_check (by decide), rfl, by decide, by decide⟩
theorem witness_RegisterWriters :
    after (·.sfx) (exec (.cfgSfx 0x06#8) State.reset) = some 0x06#8 := by decide
theorem witness_PermutationsPerCommand :
    StateInvariants (profileAt .absorb 135#8 0#8) ∧
    legalIn (.absorb 0#8) (profileAt .absorb 135#8 0#8).phase = true ∧
    permutationsOf (.absorb 0#8) (profileAt .absorb 135#8 0#8) = 1 := ⟨inv_last_byte, rfl, by decide⟩
theorem witness_InternalStateNeverMatters :
    answer (execute 0x90000002#32 State.reset) = some ⟨.ok, 0x00000001#32⟩ := by decide
theorem witness_LfsrPeriod : (0x80#8 : Byte) ≠ 0x00#8 ∧ 0 < 254 ∧ 254 < 255 := by decide
theorem witness_RoundConstantTable : 0x8082#64 ∈ rcTable ∧ (0x8082#64).getLsbD 15 = true := by decide
theorem witness_IotaXorsTheRoundConstant : 0 < 24 ∧ 23 < 24 := by decide
theorem witness_LaneLayout : 0 < 64 ∧ 63 < 64 := by decide
theorem witness_ThetaUsesOldParities (x : Fin 5) :
    (laneAt (Vector.replicate 25 0#64) x 0 ^^^ laneAt (Vector.replicate 25 0#64) x 1 ^^^
      laneAt (Vector.replicate 25 0#64) x 2 ^^^ laneAt (Vector.replicate 25 0#64) x 3 ^^^
      laneAt (Vector.replicate 25 0#64) x 4) = 0#64 := by
  simp [laneAt]
theorem witness_ChiUsesOldRows (x y : Fin 5) :
    laneAt (Vector.replicate 25 0#64) x y = 0#64 ∧
    laneAt (Vector.replicate 25 (BitVec.allOnes 64)) x y = BitVec.allOnes 64 := by
  simp [laneAt]
theorem witness_Ready : Ready State.reset ∧ Ready (profileAt .squeeze 0#8 136#8) ∧
    LegalConfig 8#11 1592#11 ∧ LegalConfig 1600#11 0#11 :=
  ⟨⟨inv_reset, rfl⟩, ⟨inv_read_out, rfl⟩, by decide, by decide⟩
theorem witness_NopAndStatusDisturbNothing : Ready State.reset ∧ (2#2 : BitVec 2) ≠ 3#2 :=
  ⟨witness_Ready.1, by decide⟩
theorem witness_EnginesShareNothing :
    (Platform.stepEngine ⟨[State.reset, State.reset]⟩ 0) = .next ⟨[State.reset, State.reset]⟩ ∧
    1 ≠ 0 := ⟨rfl, by decide⟩
theorem witness_AssemblerBuildsOnlyCommands :
    Asm.assemble ['N', 'O', 'P'] = some [0x00000000#32] ∧ 0x00000000#32 ∈ [0x00000000#32] := by
  decide

end Sys2Proof.Tests
end

/-! PROOFS. The statements of spec/10_state.md: the reset values, the invariants of R37 and who keeps
them, the writers of each register, and the internal state of R40. -/

namespace Sys2Proof.Machine

/-! ### What a command that completes leaves

`effect` is the state a command leaves before its response is offered, `answerData` is that response's
DATA, and `operandError` is the code a command's own operands can make it fail with. `execBody_eq` ties
the three to the model. -/

/-- The state ABSORB leaves: S and the cursor B written, with the permutation where the
block is full (R177). -/
def State.absorbed (d : Byte) (s : State) : State :=
  let s1 : State := { s.xorS s.absorbOffset d with b := s.b + 1#8 }
  if s1.blockFull then { s1.permute with b := 0#8 } else s1

/-- The state after FINAL has XORed its suffix byte, with the special case's permutation (R178,
R188). -/
def State.suffixed (s : State) : State :=
  let s1 := s.xorS s.absorbOffset s.sfx
  if s1.padSpecialCase then s1.permute else s1

/-- The state SQUEEZE reads its byte from: permuted where the block has been read out (R179). -/
def State.refilled (s : State) : State :=
  if s.blockReadOut then { s.permute with q := 0#8 } else s

/-- Everything a command that completes writes but its response. -/
def effect : Instr → State → State
  | .nop, s => s
  | .cfgRc rate cap, s => { s with rate := rate, cap := cap }
  | .cfgSfx byte, s => { s with sfx := byte }
  | .cfgK256, s => { s with rate := 1088#11, cap := 512#11, sfx := 0x01#8 }
  | .start, s => { s.zeroS with b := 0#8, q := 0#8, phase := .absorb }
  | .absorb byte, s => s.absorbed byte
  | .final, s =>
      { (s.suffixed.xorS s.suffixed.lastRateOffset 0x80#8).permute with
        b := 0#8, q := 0#8, phase := .squeeze }
  | .squeeze, s => { s.refilled with q := s.refilled.q + 1#8 }
  | .endHash, s => { s.zeroS with b := 0#8, q := 0#8, phase := .idle }
  | .status _, s => s
  | .clrErr, s => { s with errf := .ok }

/-- The DATA of a command that completes (R92). -/
def answerData : Instr → State → Word
  | .squeeze, s => zext32 (s.refilled.readS s.refilled.squeezeOffset)
  | .status sel, s =>
      if sel = 0#2 then s.statusPhase else if sel = 1#2 then s.statusConfig else s.statusSuffix
  | _, _ => 0#32

/-- The error a command's operands make it end with in a phase where it is legal, if any: CFG for a
malformed configuration (R173), ILLEGAL for the selector that is no command (R89). -/
def operandError : Instr → Option ErrCode
  | .cfgRc rate cap => if configAccepted rate cap then none else some .cfg
  | .status sel => if sel = 3#2 then some .illegal else none
  | _ => none

/-- Every body fails on its operands, or writes its effect and answers. -/
theorem execBody_eq (i : Instr) (s : State) :
    execBody i s = (operandError i).elim (respond (answerData i s) (effect i s)) (fail · s) := by
  cases i with
  | cfgRc rate cap =>
    simp only [execBody, operandError]
    split <;> rfl
  | status sel =>
    have hsel : sel = 0#2 ∨ sel = 1#2 ∨ sel = 2#2 ∨ sel = 3#2 := by revert sel; decide
    rcases hsel with rfl | rfl | rfl | rfl <;> rfl
  | _ => rfl

/-- A command that is legal in the phase and has acceptable operands completes. -/
theorem exec_of_legal {i : Instr} {s : State} (hi : s.Inv) (hl : legalIn i s.phase = true)
    (ho : operandError i = none) :
    exec i s = .next ((effect i s).offer .ok (answerData i s)) := by
  rw [exec_eq_command, command_legal hi hl, execBody_eq, ho]
  rfl

/-- Everything a command can do when it answers a next state: complete, or end in an error that writes
ERRF alone. -/
theorem exec_next_cases {i : Instr} {s t : State} (h : exec i s = .next t) :
    s.Inv ∧ ((legalIn i s.phase = true ∧ operandError i = none ∧
        t = (effect i s).offer .ok (answerData i s)) ∨
      ∃ c, t = (s.recordError c).offer c 0#32) := by
  obtain ⟨hi, ⟨hl, hb⟩ | ⟨-, hf⟩⟩ := exec_next h
  · rw [execBody_eq] at hb
    cases ho : operandError i with
    | none =>
      rw [ho] at hb
      cases hb
      exact ⟨hi, .inl ⟨hl, rfl, rfl⟩⟩
    | some c =>
      rw [ho] at hb
      cases hb
      exact ⟨hi, .inr ⟨c, rfl⟩⟩
  · cases hf
    exact ⟨hi, .inr ⟨_, rfl⟩⟩

/-! ### The fields that ABSORB, FINAL's suffix and SQUEEZE's permutation leave -/

section Fields
variable (s : State) (d : Byte)

@[simp] theorem State.absorbed_rate : (s.absorbed d).rate = s.rate := by
  simp only [State.absorbed]; split <;> rfl

@[simp] theorem State.absorbed_cap : (s.absorbed d).cap = s.cap := by
  simp only [State.absorbed]; split <;> rfl

@[simp] theorem State.absorbed_sfx : (s.absorbed d).sfx = s.sfx := by
  simp only [State.absorbed]; split <;> rfl

@[simp] theorem State.absorbed_phase : (s.absorbed d).phase = s.phase := by
  simp only [State.absorbed]; split <;> rfl

@[simp] theorem State.absorbed_q : (s.absorbed d).q = s.q := by
  simp only [State.absorbed]; split <;> rfl

@[simp] theorem State.suffixed_rate : s.suffixed.rate = s.rate := by
  simp only [State.suffixed]; split <;> rfl

@[simp] theorem State.suffixed_cap : s.suffixed.cap = s.cap := by
  simp only [State.suffixed]; split <;> rfl

@[simp] theorem State.suffixed_sfx : s.suffixed.sfx = s.sfx := by
  simp only [State.suffixed]; split <;> rfl

@[simp] theorem State.refilled_rate : s.refilled.rate = s.rate := by
  unfold State.refilled; split <;> rfl

@[simp] theorem State.refilled_cap : s.refilled.cap = s.cap := by
  unfold State.refilled; split <;> rfl

@[simp] theorem State.refilled_sfx : s.refilled.sfx = s.sfx := by
  unfold State.refilled; split <;> rfl

@[simp] theorem State.refilled_phase : s.refilled.phase = s.phase := by
  unfold State.refilled; split <;> rfl

@[simp] theorem State.refilled_b : s.refilled.b = s.b := by
  unfold State.refilled; split <;> rfl

/-- The squeeze cursor starts again at the new block (R179). -/
theorem State.refilled_q : s.refilled.q = if s.q.toNat = s.blockBytes then 0#8 else s.q := by
  simp only [State.refilled, State.blockReadOut, beq_iff_eq]; split <;> rfl

/-- The absorb cursor goes on by one, and starts again at a full block (R177). -/
theorem State.absorbed_b : (s.absorbed d).b =
    if (s.b + 1#8).toNat = s.blockBytes then 0#8 else s.b + 1#8 := by
  simp only [State.absorbed, State.blockFull, beq_iff_eq]
  split <;> simp_all [State.blockBytes]

/-- ABSORB that leaves the block unfilled XORs its byte at B and does not permute (R177). -/
theorem State.absorbed_S_of_ne (h : (s.b + 1#8).toNat ≠ s.blockBytes) :
    (s.absorbed d).S = xorByte s.S s.b.toNat d := by
  have hf : ({ s.xorS s.absorbOffset d with b := s.b + 1#8 } : State).blockFull = false :=
    beq_eq_false_iff_ne.2 h
  simp only [State.absorbed, hf]
  rfl

end Fields

/-! ### The invariants of R37, phase by phase -/

/-- In IDLE, R37 asks for a legal configuration, cursors 0 and S all zero. -/
theorem inv_idle_iff {s : State} (hp : s.phase = .idle) :
    s.Inv ↔ s.configLegal = true ∧ (s.b.toNat = 0 ∧ s.q.toNat = 0) ∧
      ∀ k, (h : k < 200) → s.S[k] = 0#8 := by
  simp only [inv_iff_checks, State.cursorsInRange, State.idleIsZero, hp, allZero_iff,
    Bool.and_eq_true, beq_iff_eq]

/-- In ABSORB, R37 asks for a legal configuration, B inside the block and Q = 0. -/
theorem inv_absorb_iff {s : State} (hp : s.phase = .absorb) :
    s.Inv ↔ s.configLegal = true ∧ s.b.toNat < s.blockBytes ∧ s.q.toNat = 0 := by
  simp [inv_iff_checks, State.cursorsInRange, State.idleIsZero, hp]

/-- In SQUEEZE, R37 asks for a legal configuration, B = 0 and Q at most the block's length. -/
theorem inv_squeeze_iff {s : State} (hp : s.phase = .squeeze) :
    s.Inv ↔ s.configLegal = true ∧ s.b.toNat = 0 ∧ s.q.toNat ≤ s.blockBytes := by
  simp [inv_iff_checks, State.cursorsInRange, State.idleIsZero, hp]

theorem State.Inv.configLegal {s : State} (hi : s.Inv) : s.configLegal = true :=
  ((inv_iff_checks s).1 hi).1

/-- The check of the configuration reads RATE and CAP alone. -/
theorem configLegal_congr {s t : State} (hr : t.rate = s.rate) (hc : t.cap = s.cap) :
    t.configLegal = s.configLegal := by
  simp [State.configLegal, hr, hc]

theorem blockBytes_congr {s t : State} (hr : t.rate = s.rate) : t.blockBytes = s.blockBytes := by
  simp [State.blockBytes, hr]

/-- A legal configuration has blocks of 1 to 200 bytes. -/
theorem blockBytes_bounds {s : State} (h : s.configLegal = true) :
    0 < s.blockBytes ∧ s.blockBytes ≤ 200 := by
  rw [configLegal_iff] at h
  unfold State.blockBytes
  omega

/-- A cursor inside the block goes on by one without wrapping, for a block is at most 200 bytes. -/
theorem toNat_add_one_of_lt_blockBytes {s : State} {c : Byte} (h : s.configLegal = true)
    (hc : c.toNat < s.blockBytes) : (c + 1#8).toNat = c.toNat + 1 := by
  have := (blockBytes_bounds h).2
  bv_omega

/-- CFG_RC's check lets through only configurations that are legal (R173). -/
theorem configLegal_of_accepted {s : State} (h : configAccepted s.rate s.cap = true) :
    s.configLegal = true := by
  simp only [configAccepted, Bool.not_eq_true', Bool.or_eq_false_iff, beq_eq_false_iff_ne,
    bne_eq_false_iff_eq] at h
  rw [configLegal_iff]
  omega

/-! ### Every command keeps the invariants -/

/-- In IDLE a new legal configuration keeps the invariants: cursors and S are zero whatever the rate. -/
theorem inv_withConfig {s : State} (hi : s.Inv) (hp : s.phase = .idle) {rate cap : BitVec 11}
    (hc : configAccepted rate cap = true) : ({ s with rate := rate, cap := cap } : State).Inv :=
  (inv_idle_iff (s := { s with rate := rate, cap := cap }) hp).2
    ⟨configLegal_of_accepted hc, ((inv_idle_iff hp).1 hi).2⟩

/-- START's state meets the invariants, whatever was absorbed before (R176). -/
theorem inv_effect_start {s : State} (hi : s.Inv) : (effect .start s).Inv :=
  (inv_absorb_iff rfl).2 ⟨hi.configLegal, (blockBytes_bounds hi.configLegal).1, rfl⟩

/-- END's state meets the invariants: S is zero again in IDLE (R180). -/
theorem inv_effect_endHash {s : State} (hi : s.Inv) : (effect .endHash s).Inv :=
  (inv_idle_iff rfl).2 ⟨hi.configLegal, ⟨rfl, rfl⟩, fun _ h => Vector.getElem_replicate h⟩

/-- ABSORB keeps B inside the block: it wraps to 0 exactly where it would leave it (R177). -/
theorem inv_absorbed {s : State} (hi : s.Inv) (hp : s.phase = .absorb) (d : Byte) :
    (s.absorbed d).Inv := by
  obtain ⟨hc, hb, hq⟩ := (inv_absorb_iff hp).1 hi
  have hpos := (blockBytes_bounds hc).1
  have hb1 := toNat_add_one_of_lt_blockBytes hc hb
  rw [inv_absorb_iff (by simp [hp]), configLegal_congr (s := s) (by simp) (by simp),
    blockBytes_congr (s := s) (by simp), State.absorbed_q, State.absorbed_b]
  refine ⟨hc, ?_, hq⟩
  split
  · exact hpos
  · omega

/-- FINAL leaves both cursors 0 in SQUEEZE, and the configuration as it was (R178). -/
theorem inv_effect_final {s : State} (hi : s.Inv) : (effect .final s).Inv := by
  refine (inv_squeeze_iff rfl).2 ⟨?_, rfl, Nat.zero_le _⟩
  rw [configLegal_congr (s := s) (by simp [effect]) (by simp [effect])]
  exact hi.configLegal

/-- SQUEEZE keeps Q at most the block's length: it starts again at 0 before it would pass it (R179). -/
theorem inv_effect_squeeze {s : State} (hi : s.Inv) (hp : s.phase = .squeeze) :
    (effect .squeeze s).Inv := by
  obtain ⟨hc, hb, hq⟩ := (inv_squeeze_iff hp).1 hi
  have hpos := (blockBytes_bounds hc).1
  have hlt : s.refilled.q.toNat < s.blockBytes := by
    rw [State.refilled_q]
    split
    · exact hpos
    · omega
  have hq1 := toNat_add_one_of_lt_blockBytes hc hlt
  rw [inv_squeeze_iff (by simp [effect, hp]),
    configLegal_congr (s := s) (by simp [effect]) (by simp [effect]),
    blockBytes_congr (s := s) (by simp [effect])]
  refine ⟨hc, by simpa [effect] using hb, ?_⟩
  simp only [effect]
  omega

/-- A command that completes keeps the invariants of R37. -/
theorem inv_effect {i : Instr} {s : State} (hi : s.Inv) (hl : legalIn i s.phase = true)
    (ho : operandError i = none) : (effect i s).Inv := by
  cases i with
  | nop => exact hi
  | cfgRc rate cap => exact inv_withConfig hi (eq_of_beq hl) (by simpa [operandError] using ho)
  | cfgSfx byte => exact hi
  | cfgK256 => exact inv_withConfig hi (eq_of_beq hl) (rate := 1088#11) (cap := 512#11) (by decide)
  | start => exact inv_effect_start hi
  | absorb byte => exact inv_absorbed hi (eq_of_beq hl) byte
  | final => exact inv_effect_final hi
  | squeeze => exact inv_effect_squeeze hi (eq_of_beq hl)
  | endHash => exact inv_effect_endHash hi
  | status sel => exact hi
  | clrErr => exact hi

/-- An error keeps the invariants: ERRF and the response are no part of R37. -/
theorem inv_recordError {s : State} (hi : s.Inv) (c : ErrCode) : (s.recordError c).Inv := by
  rw [State.recordError_eq]
  exact hi

/-- Every accepted word, legal or not, keeps the invariants of R37. -/
theorem inv_execute {w : Word} {s t : State} (h : execute w s = .next t) : t.Inv := by
  obtain ⟨hi, ⟨i, -, hx⟩ | ⟨e, -, hf⟩⟩ := execute_next h
  · obtain ⟨-, ⟨hl, ho, rfl⟩ | ⟨c, rfl⟩⟩ := exec_next_cases hx
    · exact inv_effect hi hl ho
    · exact inv_recordError hi c
  · cases hf
    exact inv_recordError hi _

/-- Every byte of S is zero after reset. -/
theorem reset_S_getElem (k : Nat) (h : k < 200) : State.reset.S[k] = 0x00#8 :=
  Vector.getElem_replicate h

/-- The reset state meets the invariants of R37. -/
theorem State.reset_inv : State.reset.Inv :=
  (inv_idle_iff rfl).2 ⟨by decide, ⟨rfl, rfl⟩, reset_S_getElem⟩

/-- Settles O8: the reset configuration is legal, and in IDLE cursors and S are zero. -/
theorem resetMeetsTheInvariants : Obligations.ResetMeetsTheInvariants := (inv_iff _).1 State.reset_inv

/-- Settles O9: reset leaves a state that meets R37, an accepted word keeps it (`inv_execute`), and at
any other edge only the host's moves and the response change. -/
theorem stepKeepsTheInvariants : Obligations.StepKeepsTheInvariants := by
  intro s t hs h
  rw [← inv_iff]
  obtain ⟨-, rfl⟩ | ⟨-, -, -, hx⟩ | ⟨-, -, hi, rfl⟩ := step_next h
  · exact State.reset_inv
  · exact inv_execute hx
  · split <;> exact hi

/-- Settles O6: R42's table, and both outputs low while reset is asserted. -/
theorem resetValues : Obligations.ResetValues := by
  refine ⟨reset_S_getElem, rfl, rfl, rfl, rfl, rfl, rfl, rfl, rfl, fun s p hp => ?_⟩
  simp [State.cmdReady, State.rspValid, hp]

/-! ### A broken state is a fault -/

/-- In a broken state every command stops with the fault of the broken invariant. -/
theorem exec_broken {s : State} {f : Fault} (h : s.broken = some f) (i : Instr) :
    exec i s = .fault f := by
  rw [exec_eq_command, command_broken h]

/-- In a broken state every word stops with a fault, an illegal one too. -/
theorem execute_broken {s : State} {f : Fault} (h : s.broken = some f) (w : Word) :
    execute w s = .fault f := by
  unfold execute
  split
  · exact exec_broken h _
  · exact guardInv_of_broken h _

/-- In a broken state every edge but reset stops with a fault. -/
theorem step_broken {s : State} {f : Fault} (h : s.broken = some f) (hr : s.pins.rst = false) :
    step s = .fault f := by
  simp only [step, hr, Bool.false_eq_true, if_false]
  split
  · exact execute_broken (s := s.passEdge) h _
  · exact guardInv_of_broken h _

/-- Settles O10: a state that is not within R37 has a broken invariant, which every command and every
edge but reset names as its fault. -/
theorem brokenStateFaults : Obligations.BrokenStateFaults := by
  intro s hs
  rw [← inv_iff] at hs
  obtain ⟨f, hf⟩ := Option.ne_none_iff_exists'.1 hs
  exact ⟨fun i => ⟨f, exec_broken hf i⟩, fun hr => ⟨f, step_broken hf hr⟩⟩

/-! ### What each command writes -/

/-- Settles O28: with B + 1 < R the cursor does not wrap and the block is not full, so S changes by the
one XOR at B. -/
theorem absorbChangesOneByteOfTheRate : Obligations.AbsorbChangesOneByteOfTheRate := by
  intro s t d hs hp hlt h
  rw [← inv_iff] at hs
  have hR := (blockBytes_bounds hs.configLegal).2
  have hb : s.b.toNat < s.blockBytes := by unfold State.blockBytes; omega
  have hb1 := toNat_add_one_of_lt_blockBytes hs.configLegal hb
  rw [exec_of_legal hs (by simp [legalIn, hp]) rfl] at h
  cases h
  have hS : (s.absorbed d).S = xorByte s.S s.b.toNat d :=
    s.absorbed_S_of_ne d (by unfold State.blockBytes; omega)
  simp only [State.offer_S, effect, hS]
  exact ⟨hb, byteAt_xorByte_same _ _ (by omega), fun a ha => byteAt_xorByte_of_ne _ _ ha⟩

section Frame
variable {i : Instr} (s : State)

/-- RATE and CAP are written by CFG_RC and CFG_K256 alone. -/
theorem effect_rate_cap (h1 : ∀ r c, i ≠ .cfgRc r c) (h2 : i ≠ .cfgK256) :
    (effect i s).rate = s.rate ∧ (effect i s).cap = s.cap := by
  cases i with
  | cfgRc r c => exact absurd rfl (h1 r c)
  | cfgK256 => exact absurd rfl h2
  | _ => simp [effect]

/-- SFX is written by CFG_SFX and CFG_K256 alone. -/
theorem effect_sfx (h1 : ∀ v, i ≠ .cfgSfx v) (h2 : i ≠ .cfgK256) : (effect i s).sfx = s.sfx := by
  cases i with
  | cfgSfx v => exact absurd rfl (h1 v)
  | cfgK256 => exact absurd rfl h2
  | _ => simp [effect]

/-- PHASE is written by START, FINAL and END alone. -/
theorem effect_phase (h1 : i ≠ .start) (h2 : i ≠ .final) (h3 : i ≠ .endHash) :
    (effect i s).phase = s.phase := by
  cases i with
  | start => exact absurd rfl h1
  | final => exact absurd rfl h2
  | endHash => exact absurd rfl h3
  | _ => simp [effect]

/-- B is written by START, ABSORB, FINAL and END alone. -/
theorem effect_b (h1 : i ≠ .start) (h2 : ∀ d, i ≠ .absorb d) (h3 : i ≠ .final)
    (h4 : i ≠ .endHash) : (effect i s).b = s.b := by
  cases i with
  | start => exact absurd rfl h1
  | absorb d => exact absurd rfl (h2 d)
  | final => exact absurd rfl h3
  | endHash => exact absurd rfl h4
  | _ => simp [effect]

/-- Q is written by START, FINAL, SQUEEZE and END alone. -/
theorem effect_q (h1 : i ≠ .start) (h2 : i ≠ .final) (h3 : i ≠ .squeeze) (h4 : i ≠ .endHash) :
    (effect i s).q = s.q := by
  cases i with
  | start => exact absurd rfl h1
  | final => exact absurd rfl h2
  | squeeze => exact absurd rfl h3
  | endHash => exact absurd rfl h4
  | _ => simp [effect]

/-- S is written by START, ABSORB, FINAL, SQUEEZE and END alone. -/
theorem effect_S (h1 : i ≠ .start) (h2 : ∀ d, i ≠ .absorb d) (h3 : i ≠ .final)
    (h4 : i ≠ .squeeze) (h5 : i ≠ .endHash) : (effect i s).S = s.S := by
  cases i with
  | start => exact absurd rfl h1
  | absorb d => exact absurd rfl (h2 d)
  | final => exact absurd rfl h3
  | squeeze => exact absurd rfl h4
  | endHash => exact absurd rfl h5
  | _ => rfl

end Frame

/-- Settles O34: a command that completes leaves its `effect`, whose frame is one lemma per register; an
error leaves every register of the six alone. -/
theorem registerWriters : Obligations.RegisterWriters := by
  intro i s t h
  obtain ⟨-, ⟨-, -, rfl⟩ | ⟨c, rfl⟩⟩ := exec_next_cases h
  · exact ⟨effect_rate_cap s, effect_sfx s, effect_phase s, effect_b s, effect_q s,
      fun h1 h2 h3 h4 h5 a => congrArg (byteAt · a) (effect_S s h1 h2 h3 h4 h5)⟩
  · simp

/-! ### The internal state of R40 -/

/-- `s'` is `s` but for the internal state of R40. -/
def EqButScratch (s s' : State) : Prop := ∃ v, s' = { s with scratch := v }

/-- Where `r` answers a next state, `r'` answers that state but for the internal state of R40. -/
def AlikeButScratch (r r' : Result) : Prop :=
  ∀ t, r = .next t → ∃ v, r' = .next { t with scratch := v }

theorem eqButScratch_ite {c : Prop} [Decidable c] {s s' t t' : State} (hs : EqButScratch s s')
    (ht : EqButScratch t t') : EqButScratch (if c then s else t) (if c then s' else t') := by
  split
  · exact hs
  · exact ht

section Scratch
variable (s : State) (v : PermScratch)

/-- SQUEEZE's check of the cursor does not read the internal state of R40. -/
theorem eqButScratch_refilled : EqButScratch s.refilled { s with scratch := v }.refilled :=
  eqButScratch_ite (c := s.blockReadOut) ⟨_, rfl⟩ ⟨v, rfl⟩

/-- ABSORB's check for a full block does not read the internal state of R40. -/
theorem eqButScratch_absorbed (d : Byte) :
    EqButScratch (s.absorbed d) ({ s with scratch := v }.absorbed d) :=
  eqButScratch_ite (c := State.blockFull { s.xorS s.absorbOffset d with b := s.b + 1#8 })
    ⟨_, rfl⟩ ⟨v, rfl⟩

/-- FINAL's check for the special case does not read the internal state of R40. -/
theorem eqButScratch_suffixed : EqButScratch s.suffixed { s with scratch := v }.suffixed :=
  eqButScratch_ite (c := (s.xorS s.absorbOffset s.sfx).padSpecialCase) ⟨_, rfl⟩ ⟨v, rfl⟩

/-- What a command writes but for the internal state of R40 does not depend on that state. -/
theorem eqButScratch_effect (i : Instr) :
    EqButScratch (effect i s) (effect i { s with scratch := v }) := by
  cases i with
  | absorb d => exact eqButScratch_absorbed s v d
  | final =>
    obtain ⟨v', h⟩ := eqButScratch_suffixed s v
    exact ⟨Config.freeScratch s.suffixed.permCount, by simp only [effect, h]; rfl⟩
  | squeeze =>
    obtain ⟨v', h⟩ := eqButScratch_refilled s v
    exact ⟨v', by simp only [effect, h]⟩
  | _ => exact ⟨v, rfl⟩

/-- The DATA of a response does not depend on the internal state of R40. -/
theorem answerData_scratch (i : Instr) : answerData i { s with scratch := v } = answerData i s := by
  cases i with
  | squeeze =>
    obtain ⟨v', h⟩ := eqButScratch_refilled s v
    simp only [answerData, h]
    rfl
  | _ => rfl

/-- The invariants do not read the internal state of R40, so the guard lets both states through. -/
theorem alikeButScratch_guardInv {r r' : Result} (h : AlikeButScratch r r') :
    AlikeButScratch (guardInv s r) (guardInv { s with scratch := v } r') := by
  intro t ht
  obtain ⟨hi, hr⟩ := guardInv_next ht
  rw [guardInv_of_inv (s := { s with scratch := v }) hi]
  exact h t hr

theorem alikeButScratch_fail (c : ErrCode) :
    AlikeButScratch (fail c s) (fail c { s with scratch := v }) := by
  intro t ht
  rw [fail_eq] at ht
  cases ht
  exact ⟨v, fail_eq c _⟩

/-- A body that completes writes and answers alike, and one that fails has the same code. -/
theorem alikeButScratch_execBody (i : Instr) :
    AlikeButScratch (execBody i s) (execBody i { s with scratch := v }) := by
  rw [execBody_eq, execBody_eq]
  cases operandError i with
  | none =>
    intro t ht
    cases ht
    obtain ⟨v', h⟩ := eqButScratch_effect s v i
    exact ⟨v', by simp only [Option.elim, answerData_scratch, h]; rfl⟩
  | some c => exact alikeButScratch_fail s v c

/-- A command answers alike whatever the internal state of R40 holds: the phase check does not read it
either. -/
theorem alikeButScratch_exec (i : Instr) :
    AlikeButScratch (exec i s) (exec i { s with scratch := v }) := by
  rw [exec_eq_command, exec_eq_command]
  refine alikeButScratch_guardInv s v ?_
  cases legalIn i s.phase
  · exact alikeButScratch_fail s v .seq
  · exact alikeButScratch_execBody s v i

/-- Every word, legal or not, is answered alike whatever the internal state of R40 holds. -/
theorem alikeButScratch_execute (w : Word) :
    AlikeButScratch (execute w s) (execute w { s with scratch := v }) := by
  unfold execute
  cases decode w with
  | ok i => exact alikeButScratch_exec s v i
  | error e => exact alikeButScratch_guardInv s v (alikeButScratch_fail s v .illegal)

end Scratch

/-- Settles O36: no check, write or answer of a command reads the internal state of R40. -/
theorem internalStateNeverMatters : Obligations.InternalStateNeverMatters :=
  fun w s t v => alikeButScratch_execute s v w t

end Sys2Proof.Machine

/-! PROOFS. The statements of spec/20_memory.md: the byte and lane views of S, transactions that
leave the engine as it was, and platforms of several engines. -/

namespace Sys2Proof.Machine

/-! ### Several engines -/

/-- Everything a step of engine `k` of a platform can do when it answers: nothing where there is no such
engine, and else write that engine alone. -/
theorem Platform.stepEngine_next {p q : Platform} {k : Nat} (h : p.stepEngine k = .next q) :
    q = p ∨ ∃ s t, p.engines[k]? = some s ∧ step s = .next t ∧ q = ⟨p.engines.set k t⟩ := by
  unfold Platform.stepEngine at h
  split at h
  · cases h
    exact .inl rfl
  · next s hk =>
    split at h
    · next t ht =>
      cases h
      exact .inr ⟨s, t, hk, ht, rfl⟩
    · cases h
    · cases h

/-- Settles O53: a step writes at most the one place `k` of the list of engines. -/
theorem enginesShareNothing : Obligations.EnginesShareNothing := by
  intro p q k j h hj
  obtain rfl | ⟨s, t, -, -, rfl⟩ := Platform.stepEngine_next h
  · exact ⟨rfl, rfl⟩
  · exact ⟨List.getElem?_set_ne hj.symm, List.length_set⟩

/-! ### Transactions of commands that complete -/

/-- The host's moves can be put in after the choice between two states. -/
theorem ite_withHost (c : Prop) [Decidable c] (s t : State) (ps : List HostPins) :
    (if c then { s with host := ps } else { t with host := ps } : State) =
      { (if c then s else t) with host := ps } := by
  split <;> rfl

section Host
variable (s : State) (ps : List HostPins)

/-- ABSORB's check for a full block does not read the host's moves. -/
theorem State.absorbed_withHost (d : Byte) :
    State.absorbed d { s with host := ps } = { s.absorbed d with host := ps } :=
  let s1 : State := { s.xorS s.absorbOffset d with b := s.b + 1#8 }
  ite_withHost (s1.blockFull = true) { s1.permute with b := 0#8 } s1 ps

/-- FINAL's check for the special case does not read the host's moves. -/
theorem State.suffixed_withHost :
    State.suffixed { s with host := ps } = { s.suffixed with host := ps } :=
  let s1 := s.xorS s.absorbOffset s.sfx
  ite_withHost (s1.padSpecialCase = true) s1.permute s1 ps

/-- SQUEEZE's check of the cursor does not read the host's moves. -/
theorem State.refilled_withHost :
    State.refilled { s with host := ps } = { s.refilled with host := ps } :=
  ite_withHost (s.blockReadOut = true) { s.permute with q := 0#8 } s ps

/-- No command's effect depends on the host's moves or touches them. -/
theorem effect_withHost (i : Instr) :
    effect i { s with host := ps } = { effect i s with host := ps } := by
  cases i with
  | absorb d => exact State.absorbed_withHost s ps d
  | final =>
    simp only [effect, State.suffixed_withHost]
    rfl
  | squeeze => simp only [effect, State.refilled_withHost]
  | _ => rfl

/-- No command's DATA depends on the host's moves. -/
theorem answerData_withHost (i : Instr) : answerData i { s with host := ps } = answerData i s := by
  cases i with
  | squeeze =>
    simp only [answerData, State.refilled_withHost]
    rfl
  | _ => rfl

end Host

/-- The transaction of a command that is legal in the phase and has acceptable operands answers OK with
the command's DATA, and leaves the command's effect (R170, R267). -/
theorem transact_of_legal {i : Instr} {s : State} {w : Word} (hi : s.Inv) (hr : s.response = none)
    (hd : decode w = .ok i) (hl : legalIn i s.phase = true) (ho : operandError i = none) :
    transact w s =
      some (⟨.ok, answerData i s⟩, { effect i s with host := [], response := none }) := by
  have hx : execute w { s with host := [HostPins.take] } =
      .next (({ effect i s with host := [HostPins.take] } : State).offer .ok (answerData i s)) := by
    rw [← effect_withHost, ← answerData_withHost s [HostPins.take] i, execute, hd]
    exact exec_of_legal hi hl ho
  have ht : (({ effect i s with host := [HostPins.take] } : State).offer .ok (answerData i s)).Inv :=
    inv_effect hi hl ho
  exact (transact_of_execute hr hx ht rfl :)

/-- The transaction of a command that writes nothing leaves the engine as it was. -/
theorem transact_of_effect_eq {i : Instr} {s : State} {w : Word} (hi : s.Inv) (hr : s.response = none)
    (hd : decode w = .ok i) (hl : legalIn i s.phase = true) (ho : operandError i = none)
    (he : effect i s = s) :
    transact w s = some (⟨.ok, answerData i s⟩, { s with host := [] }) := by
  rw [transact_of_legal hi hr hd hl ho, he]
  simp only [← hr]

theorem decode_encode_status {sel : BitVec 2} (h : sel ≠ 3#2) :
    decode (encode (.status sel)) = .ok (.status sel) := by
  revert sel
  decide

/-- STATUS with one of its three selectors answers its word and leaves the engine as it was. -/
theorem transact_status {s : State} {sel : BitVec 2} (hi : s.Inv) (hr : s.response = none)
    (hsel : sel ≠ 3#2) :
    transact (encode (.status sel)) s =
      some (⟨.ok, answerData (.status sel) s⟩, { s with host := [] }) :=
  transact_of_effect_eq hi hr (decode_encode_status hsel) rfl (if_neg hsel) rfl

/-- Settles O52: NOP and STATUS write nothing but their response, and the status word is read from what
the first STATUS left as it was. -/
theorem nopAndStatusDisturbNothing : Obligations.NopAndStatusDisturbNothing := by
  intro s sel ⟨hs, hr⟩ hsel
  have hi : s.Inv := (inv_iff s).2 hs
  refine ⟨transact_of_effect_eq (i := .nop) hi hr (by decide) rfl rfl rfl,
    ⟨.ok, answerData (.status sel) s⟩, rfl, transact_status hi hr hsel, ?_⟩
  rw [transact_status (s := { s with host := [] }) hi hr hsel, answerData_withHost]

/-! ### The byte and lane views of S -/

@[simp] theorem laneAt_lanesOfBytes (S : StateBytes) (x y : Fin 5) :
    laneAt (lanesOfBytes S) x y = laneFromBytes S x y :=
  laneAt_buildLanes _ x y

/-- Every byte address of S is byte `i` of some lane (R61). -/
theorem exists_eq_laneOffset_add {k : Nat} (h : k < 200) :
    ∃ (x y : Fin 5) (i : Nat), i < 8 ∧ k = laneOffset x y + i := by
  refine ⟨⟨k / 8 % 5, by omega⟩, ⟨k / 8 / 5, by omega⟩, k % 8, by omega, ?_⟩
  simp only [laneOffset]
  omega

/-- Byte `i` of a lane in the byte view: `A[x,y][8*i+7 : 8*i]` (R145). -/
theorem byteAt_bytesOfLanes_laneOffset (A : Lanes) (x y : Fin 5) {i : Nat} (hi : i < 8) :
    byteAt (bytesOfLanes A) (laneOffset x y + i) = (laneAt A x y).extractLsb' (8 * i) 8 := by
  have hk : laneOffset x y + i < 200 := by unfold laneOffset; omega
  have hdiv : (laneOffset x y + i) / 8 = x.val + 5 * y.val := by unfold laneOffset; omega
  have hmod : (laneOffset x y + i) % 8 = i := by unfold laneOffset; omega
  rw [byteAt_bytesOfLanes A ⟨_, hk⟩]
  simp only [byteOfLanes, hdiv, hmod]
  rfl

/-- Bit `j` of byte `q` of a lane. -/
theorem getLsbD_laneFromBytes_mul_add (S : StateBytes) (x y : Fin 5) {q j : Nat} (hq : q < 8)
    (hj : j < 8) :
    (laneFromBytes S x y).getLsbD (8 * q + j) = (byteAt S (laneOffset x y + q)).getLsbD j := by
  simp only [laneFromBytes, BitVec.getLsbD_append]
  interval_cases q <;>
    · simp (disch := omega) only [if_pos, if_neg]
      congr 1
      omega

/-- Bit `z` of a lane is bit `z mod 8` of its byte `z div 8` (R62). -/
theorem getLsbD_laneFromBytes (S : StateBytes) (x y : Fin 5) {z : Nat} (hz : z < 64) :
    (laneFromBytes S x y).getLsbD z = (byteAt S (laneOffset x y + z / 8)).getLsbD (z % 8) := by
  rw [← getLsbD_laneFromBytes_mul_add S x y (by omega) (by omega), Nat.div_add_mod]

/-- Byte `i` of a lane is the byte of S it was built from. -/
theorem extractLsb'_laneFromBytes (S : StateBytes) (x y : Fin 5) {i : Nat} (hi : i < 8) :
    (laneFromBytes S x y).extractLsb' (8 * i) 8 = byteAt S (laneOffset x y + i) := by
  apply BitVec.eq_of_getLsbD_eq
  intro j hj
  rw [BitVec.getLsbD_extractLsb', getLsbD_laneFromBytes_mul_add S x y hi hj]
  simp [hj]

/-- The value of two bit vectors side by side. -/
theorem toNat_append_eq_add {m n : Nat} (a : BitVec m) (b : BitVec n) :
    (a ++ b).toNat = a.toNat * 2 ^ n + b.toNat := by
  rw [BitVec.toNat_append, ← Nat.shiftLeft_add_eq_or_of_lt b.isLt, Nat.shiftLeft_eq]

/-- Eight digits in base `b`, least significant first, are a nest of multiplications by `b`. -/
theorem sum_range_eight_mul_pow (f : Nat → Nat) (b : Nat) :
    ((List.range 8).map fun i => f i * b ^ i).sum =
      ((((((f 7 * b + f 6) * b + f 5) * b + f 4) * b + f 3) * b + f 2) * b + f 1) * b + f 0 := by
  simp only [List.range_succ, List.range_zero, List.map_append, List.map_cons, List.map_nil,
    List.sum_append, List.sum_singleton, List.nil_append]
  ring

/-- A lane's value is its eight bytes in little-endian order (R61). The base 2^8 stays a variable in
`sum_range_eight_mul_pow`: with its powers written out the kernel meets numerals up to 2^56. -/
theorem toNat_laneFromBytes (S : StateBytes) (x y : Fin 5) :
    (laneFromBytes S x y).toNat =
      ((List.range 8).map fun i => (byteAt S (laneOffset x y + i)).toNat * 2 ^ (8 * i)).sum := by
  simp only [laneFromBytes, toNat_append_eq_add, pow_mul, sum_range_eight_mul_pow, Nat.add_zero]

theorem bytesOfLanes_lanesOfBytes (S : StateBytes) : bytesOfLanes (lanesOfBytes S) = S := by
  apply stateBytes_ext
  intro k hk
  obtain ⟨x, y, i, hi, rfl⟩ := exists_eq_laneOffset_add hk
  rw [byteAt_bytesOfLanes_laneOffset _ _ _ hi, laneAt_lanesOfBytes, extractLsb'_laneFromBytes S x y hi]

theorem lanesOfBytes_bytesOfLanes (A : Lanes) : lanesOfBytes (bytesOfLanes A) = A := by
  apply lanes_ext
  intro x y
  apply BitVec.eq_of_getLsbD_eq
  intro z hz
  have hj : z % 8 < 8 := by omega
  rw [laneAt_lanesOfBytes, getLsbD_laneFromBytes _ x y hz,
    byteAt_bytesOfLanes_laneOffset A x y (by omega), BitVec.getLsbD_extractLsb', Nat.div_add_mod]
  simp [hj]

/-- Settles O46: R61's sum and R62's bit map of one lane, and the two round trips between the views. -/
theorem laneLayout : Obligations.LaneLayout := by
  refine fun S => ⟨fun x y => ?_, fun x y z hz => ?_, bytesOfLanes_lanesOfBytes S,
    lanesOfBytes_bytesOfLanes⟩
  · rw [laneAt_lanesOfBytes, toNat_laneFromBytes, laneOffset]
  · rw [laneAt_lanesOfBytes, getLsbD_laneFromBytes S x y hz, laneOffset]

end Sys2Proof.Machine

/-! PROOFS. The statements of spec/30_encoding.md: the decoder and the encoder, what the engine does with
an accepted word, and the words the assembler builds. -/

namespace Sys2Proof.Machine

/-! ### The opcode and the operand field as numbers

`opcodeOf` and `operandValue` are a command's row of R86 in numbers: `toNat_encode` ties them to `encode`,
and `operandBits`, the width of a row's operand field, is tied to the reserved-bit masks by
`and_resMask_eq_zero_iff`. -/

/-- The opcode of a command (R86). -/
def opcodeOf : Instr → Nat
  | .nop => 0x0
  | .cfgRc _ _ => 0x1
  | .cfgSfx _ => 0x2
  | .cfgK256 => 0x3
  | .start => 0x4
  | .absorb _ => 0x5
  | .final => 0x6
  | .squeeze => 0x7
  | .endHash => 0x8
  | .status _ => 0x9
  | .clrErr => 0xA

/-- The bits below the opcode of a command's word, as a number (R81 to R84). -/
def operandValue : Instr → Nat
  | .cfgRc rate cap => rate.toNat * 2 ^ 11 + cap.toNat
  | .cfgSfx byte | .absorb byte => byte.toNat
  | .status sel => sel.toNat
  | _ => 0

/-- How many low bits of a word the operands of an opcode take (R81 to R84): the rest, up to the opcode,
is reserved. -/
def operandBits : Nat → Nat
  | 0x1 => 22
  | 0x2 | 0x5 => 8
  | 0x9 => 2
  | _ => 0

@[simp] theorem toNat_opcOf (w : Word) : (opcOf w).toNat = opcodeNumber w := by
  have := w.isLt
  simp only [opcOf, opcodeNumber, BitVec.extractLsb'_toNat, Nat.shiftRight_eq_div_pow]
  omega

/-- A field below the opcode is read from the bits below the opcode. -/
theorem toNat_extractLsb'_of_le (w : Word) {lo n : Nat} (h : lo + n ≤ 28) :
    (w.extractLsb' lo n).toNat = belowOpcode w / 2 ^ lo % 2 ^ n := by
  have hdvd : 2 ^ (lo + n) ∣ 2 ^ 28 := Nat.pow_dvd_pow 2 h
  rw [BitVec.extractLsb'_toNat, Nat.shiftRight_eq_div_pow, belowOpcode, ← Nat.mod_mul_right_div_self,
    ← Nat.mod_mul_right_div_self, ← Nat.pow_add, Nat.mod_mod_of_dvd _ hdvd]

@[simp] theorem toNat_ratefOf (w : Word) : (ratefOf w).toNat = belowOpcode w / 2 ^ 11 % 2 ^ 11 :=
  toNat_extractLsb'_of_le w (by decide)

@[simp] theorem toNat_capfOf (w : Word) : (capfOf w).toNat = belowOpcode w % 2 ^ 11 := by
  rw [capfOf, toNat_extractLsb'_of_le w (by decide), Nat.pow_zero, Nat.div_one]

@[simp] theorem toNat_byteOf (w : Word) : (byteOf w).toNat = belowOpcode w % 2 ^ 8 := by
  rw [byteOf, toNat_extractLsb'_of_le w (by decide), Nat.pow_zero, Nat.div_one]

@[simp] theorem toNat_selOf (w : Word) : (selOf w).toNat = belowOpcode w % 2 ^ 2 := by
  rw [selOf, toNat_extractLsb'_of_le w (by decide), Nat.pow_zero, Nat.div_one]

/-! ### The operands of a word whose bits below the opcode are a command's -/

theorem ratefOf_eq_of_belowOpcode_eq {w : Word} {rate cap : BitVec 11}
    (h : belowOpcode w = rate.toNat * 2 ^ 11 + cap.toNat) : ratefOf w = rate :=
  BitVec.eq_of_toNat_eq (by rw [toNat_ratefOf]; omega)

theorem capfOf_eq_of_belowOpcode_eq {w : Word} {rate cap : BitVec 11}
    (h : belowOpcode w = rate.toNat * 2 ^ 11 + cap.toNat) : capfOf w = cap :=
  BitVec.eq_of_toNat_eq (by rw [toNat_capfOf]; omega)

theorem byteOf_eq_of_belowOpcode_eq {w : Word} {byte : Byte} (h : belowOpcode w = byte.toNat) :
    byteOf w = byte :=
  BitVec.eq_of_toNat_eq (by rw [toNat_byteOf]; omega)

theorem selOf_eq_of_belowOpcode_eq {w : Word} {sel : BitVec 2} (h : belowOpcode w = sel.toNat) :
    selOf w = sel :=
  BitVec.eq_of_toNat_eq (by rw [toNat_selOf]; omega)

/-- A field that fits above `b` is put there without touching `b`. -/
theorem toNat_placed_or {n lo : Nat} (v : BitVec n) {b : Word} (h : n + lo ≤ 32)
    (hb : b.toNat < 2 ^ lo) : (placed v lo ||| b).toNat = v.toNat * 2 ^ lo + b.toNat := by
  have hv : v.toNat * 2 ^ lo < 2 ^ 32 := calc
    v.toNat * 2 ^ lo < 2 ^ n * 2 ^ lo := Nat.mul_lt_mul_of_pos_right v.isLt (Nat.two_pow_pos lo)
    _ = 2 ^ (n + lo) := (Nat.pow_add ..).symm
    _ ≤ 2 ^ 32 := Nat.pow_le_pow_right (by decide) h
  have hp : (placed v lo).toNat = v.toNat <<< lo := by
    rw [placed, BitVec.toNat_shiftLeft, BitVec.toNat_setWidth_of_le (by omega), Nat.shiftLeft_eq,
      Nat.mod_eq_of_lt hv]
  rw [BitVec.toNat_or, hp, ← Nat.shiftLeft_add_eq_or_of_lt hb, Nat.shiftLeft_eq]

/-- A field at bit 0. -/
theorem toNat_placed_zero {n : Nat} (v : BitVec n) (h : n ≤ 32) : (placed v 0).toNat = v.toNat := by
  rw [placed, BitVec.shiftLeft_zero, BitVec.toNat_setWidth_of_le h]

/-- The word of a command is its opcode at bit 28 and its operands below (R80). -/
theorem toNat_encode (i : Instr) : (encode i).toNat = opcodeOf i * 2 ^ 28 + operandValue i := by
  cases i with
  | cfgRc rate cap =>
    have hc : (placed cap 0).toNat = cap.toNat := toNat_placed_zero cap (by decide)
    have hr : (placed rate 11 ||| placed cap 0).toNat = rate.toNat * 2 ^ 11 + cap.toNat := by
      rw [toNat_placed_or rate (by decide) (by omega), hc]
    rw [encode, BitVec.or_assoc, toNat_placed_or _ (by decide) (by omega), hr]
    rfl
  | cfgSfx byte | absorb byte =>
    have hb : (placed byte 0).toNat = byte.toNat := toNat_placed_zero byte (by decide)
    rw [encode, toNat_placed_or _ (by decide) (by omega), hb]
    rfl
  | status sel =>
    have hs : (placed sel 0).toNat = sel.toNat := toNat_placed_zero sel (by decide)
    rw [encode, toNat_placed_or _ (by decide) (by omega), hs]
    rfl
  | _ => rfl

/-- The operands of a command fit in the operand field of its opcode. -/
theorem operandValue_lt (i : Instr) : operandValue i < 2 ^ operandBits (opcodeOf i) := by
  cases i <;> simp only [operandValue, operandBits, opcodeOf] <;> omega

theorem operandBits_le (opc : Nat) : operandBits opc ≤ 22 := by
  unfold operandBits
  split <;> decide

theorem operandValue_lt_two_pow_28 (i : Instr) : operandValue i < 2 ^ 28 :=
  (operandValue_lt i).trans_le
    (Nat.pow_le_pow_right (by decide) ((operandBits_le _).trans (by decide)))

@[simp] theorem opcodeNumber_encode (i : Instr) : opcodeNumber (encode i) = opcodeOf i := by
  have := operandValue_lt_two_pow_28 i
  rw [opcodeNumber, toNat_encode]
  omega

@[simp] theorem belowOpcode_encode (i : Instr) : belowOpcode (encode i) = operandValue i := by
  have := operandValue_lt_two_pow_28 i
  rw [belowOpcode, toNat_encode]
  omega

/-- A word is a command's when its opcode and the bits below are the command's. -/
theorem encode_eq_of_numbers {w : Word} {i : Instr} (ho : opcodeNumber w = opcodeOf i)
    (hb : belowOpcode w = operandValue i) : encode i = w := by
  apply BitVec.eq_of_toNat_eq
  rw [toNat_encode, ← ho, ← hb, opcodeNumber, belowOpcode, Nat.mul_comm, Nat.div_add_mod]

/-! ### Reserved words -/

/-- The bits `lo` to `lo + n - 1` of a word are clear exactly where that field is 0. -/
theorem and_placed_allOnes_eq_zero_iff (w : Word) {n lo : Nat} (h : lo + n ≤ 32) :
    w &&& placed (BitVec.allOnes n) lo = 0#32 ↔ w.extractLsb' lo n = 0#n := by
  constructor
  · intro hw
    apply BitVec.eq_of_getLsbD_eq
    intro j hj
    have hbit := congrArg (BitVec.getLsbD · (lo + j)) hw
    simpa [placed, hj, show lo + j < 32 by omega] using hbit
  · intro hw
    apply BitVec.eq_of_getLsbD_eq
    intro j hj
    have hbit := congrArg (BitVec.getLsbD · (j - lo)) hw
    by_cases hlo : lo ≤ j
    · simpa [placed, hlo, hj, show j - lo < 32 by omega, imp_iff_not_or, or_comm] using hbit
    · simp [placed, hlo]

/-- RESMASK of R86 is the bits between a row's operand field and the opcode. -/
theorem resMask_eq_placed (opc : BitVec 4) (h : opc.toNat < 0xB) :
    resMask opc =
      placed (BitVec.allOnes (28 - operandBits opc.toNat)) (operandBits opc.toNat) := by
  revert opc
  decide

/-- No reserved bit is set exactly where the bits below the opcode are the operand field's (R88). -/
theorem and_resMask_eq_zero_iff {w : Word} (h : opcodeNumber w < 0xB) :
    w &&& resMask (opcOf w) = 0#32 ↔ belowOpcode w / 2 ^ operandBits (opcodeNumber w) = 0 := by
  have hle := operandBits_le (opcodeNumber w)
  rw [resMask_eq_placed _ (by rwa [toNat_opcOf]), toNat_opcOf,
    and_placed_allOnes_eq_zero_iff w (by omega), ← BitVec.toNat_inj,
    toNat_extractLsb'_of_le w (by omega), BitVec.toNat_zero, Nat.mod_eq_of_lt]
  apply Nat.div_lt_of_lt_mul
  rw [← Nat.pow_add, Nat.add_sub_cancel' (by omega)]
  exact Nat.mod_lt _ (by decide)

/-- The rows of R87 to R89 by the width of the operand field. -/
theorem reservedWord_iff (w : Word) :
    ReservedWord w ↔ 0xB ≤ opcodeNumber w ∨ belowOpcode w / 2 ^ operandBits (opcodeNumber w) ≠ 0 ∨
      (opcodeNumber w = 0x9 ∧ belowOpcode w % 2 ^ 2 = 3) := by
  unfold ReservedWord
  generalize opcodeNumber w = opc
  by_cases h : 0xB ≤ opc
  · simp [h]
  · interval_cases opc <;> simp [operandBits]

theorem wellFormed_status_iff {sel : BitVec 2} : WellFormed (.status sel) ↔ sel ≠ 3#2 := bne_iff_ne

/-- No word of a command is illegal (R90). -/
theorem not_reservedWord_encode {i : Instr} (h : WellFormed i) : ¬ReservedWord (encode i) := by
  rw [reservedWord_iff, opcodeNumber_encode, belowOpcode_encode,
    Nat.div_eq_of_lt (operandValue_lt i)]
  cases i with
  | status sel =>
    have hsel : sel.toNat ≠ 3 := fun e => wellFormed_status_iff.1 h (BitVec.eq_of_toNat_eq e)
    simp only [opcodeOf, operandValue]
    omega
  | _ => simp [opcodeOf]

/-! ### The decoder -/

/-- A word that decodes is the word of a well-formed command: its operand fields are the bits below the
opcode, since no reserved bit is set. -/
theorem encode_eq_of_decode_eq_ok {w : Word} {i : Instr} (h : decode w = .ok i) :
    WellFormed i ∧ encode i = w := by
  unfold decode at h
  split at h
  · cases h
  next hopc =>
  split at h
  · cases h
  next hmask =>
  rw [toNat_opcOf] at hopc h
  have hbelow := (and_resMask_eq_zero_iff (by omega)).1 (not_not.1 hmask)
  split at h
  case h_2 ho | h_3 ho | h_6 ho =>
    cases h
    rw [ho, operandBits] at hbelow
    refine ⟨rfl, encode_eq_of_numbers ho ?_⟩
    simp only [operandValue, toNat_ratefOf, toNat_capfOf, toNat_byteOf]
    omega
  case h_10 ho =>
    split at h
    · cases h
    next hsel =>
    cases h
    rw [ho, operandBits] at hbelow
    refine ⟨wellFormed_status_iff.2 hsel, encode_eq_of_numbers ho ?_⟩
    simp only [operandValue, toNat_selOf]
    omega
  case h_12 => cases h
  all_goals
    next ho =>
    cases h
    exact ⟨rfl, encode_eq_of_numbers ho (by simpa [ho, operandBits, operandValue] using hbelow)⟩

/-- A word that the decoder rejects has a reserved opcode, a reserved bit set, or is STATUS with
SEL = 3. -/
theorem reservedWord_of_decode_eq_error {w : Word} {e : Illegal} (h : decode w = .error e) :
    ReservedWord w := by
  rw [reservedWord_iff]
  unfold decode at h
  split at h
  next hopc => exact .inl (by rwa [toNat_opcOf] at hopc)
  next hopc =>
  rw [toNat_opcOf] at hopc h
  split at h
  next hmask => exact .inr (.inl (mt (and_resMask_eq_zero_iff (by omega)).2 hmask))
  split at h
  case h_10 ho =>
    split at h
    next hsel =>
      exact .inr (.inr ⟨ho, toNat_selOf w ▸ congrArg BitVec.toNat hsel⟩)
    · cases h
  -- the opcodes after the last row are those of the first check
  case h_12 => exact .inl (by grind)
  all_goals cases h

/-- The word of a well-formed command decodes to that command. -/
theorem decode_encode {i : Instr} (h : WellFormed i) : decode (encode i) = .ok i := by
  have hr := not_reservedWord_encode h
  rw [reservedWord_iff, not_or, not_or, not_not] at hr
  obtain ⟨hopc, hbelow, -⟩ := hr
  have hmask := (and_resMask_eq_zero_iff (not_le.1 hopc)).2 hbelow
  rw [decode, if_neg (by rwa [toNat_opcOf]), if_neg (not_not.2 hmask), toNat_opcOf, opcodeNumber_encode]
  have hval := belowOpcode_encode i
  cases i with
  | cfgRc rate cap =>
    simp only [opcodeOf, ratefOf_eq_of_belowOpcode_eq hval, capfOf_eq_of_belowOpcode_eq hval]
  | cfgSfx byte | absorb byte => simp only [opcodeOf, byteOf_eq_of_belowOpcode_eq hval]
  | status sel =>
    simp only [opcodeOf, selOf_eq_of_belowOpcode_eq hval, if_neg (wellFormed_status_iff.1 h)]
  | _ => rfl

/-- Settles O2: the opcode selects the command's row, no reserved bit is set, and the operand fields are
the operands (`decode_encode`). -/
theorem decodeOfEncodeIsTheCommand : Obligations.DecodeOfEncodeIsTheCommand :=
  fun _ h => decode_encode h

/-- Settles O3: with no reserved bit set, opcode and operand fields are the whole word
(`encode_eq_of_decode_eq_ok`). -/
theorem encodeOfDecodeIsTheWord : Obligations.EncodeOfDecodeIsTheWord :=
  fun _ _ h => encode_eq_of_decode_eq_ok h

/-- Settles O4: a word that decodes is a command's, and a word that does not is rejected for one of the
three reasons. -/
theorem everyWordIsACommandOrReserved : Obligations.EveryWordIsACommandOrReserved := by
  intro w
  constructor
  · rintro ⟨i, h⟩
    obtain ⟨hwf, rfl⟩ := encode_eq_of_decode_eq_ok h
    exact not_reservedWord_encode hwf
  · intro hw
    cases hd : decode w with
    | ok i => exact ⟨i, rfl⟩
    | error e => exact absurd (reservedWord_of_decode_eq_error hd) hw

/-- Settles O1: the seven words are run through the decoder, and the six commands through the encoder. -/
theorem exampleWordsDecode : Obligations.ExampleWordsDecode := by
  unfold Obligations.ExampleWordsDecode
  decide

/-! ### Accepted words -/

theorem execute_of_decode_eq_ok {w : Word} {i : Instr} (h : decode w = .ok i) (s : State) :
    execute w s = exec i s := by
  rw [execute, h]

/-- An illegal word fails with ILLEGAL and writes nothing but ERRF (R87 to R89, R234). -/
theorem execute_of_reservedWord {w : Word} {s : State} (hi : s.Inv) (hw : ReservedWord w) :
    execute w s = failedWith .illegal s := by
  cases hd : decode w with
  | ok i => exact absurd hw ((everyWordIsACommandOrReserved w).1 ⟨i, hd⟩)
  | error e =>
    rw [execute, hd]
    exact (guardInv_of_inv hi _).trans (fail_eq .illegal s)

/-- Settles O5: the decoder rejects a reserved word, and a rejected word fails with ILLEGAL
(`execute_of_reservedWord`). -/
theorem illegalWordsFailWithIllegal : Obligations.IllegalWordsFailWithIllegal :=
  fun _ s hs hw => execute_of_reservedWord ((inv_iff s).2 hs) hw

/-- A word offered while no command is in flight and reset is not asserted is executed (R265). -/
theorem step_of_cmdValid {s : State} (hr : s.response = none) (hrst : s.pins.rst = false)
    (hv : s.pins.cmdValid = true) : step s = execute s.pins.cmdWord s.passEdge := by
  simp [step, State.cmdTransfers, State.cmdReady, hr, hrst, hv]

/-- The step after `withFetchWord` executes the word placed. -/
theorem step_withFetchWord (s : State) (nbits w : Nat) :
    step (s.withFetchWord nbits w) = execute (tableWord nbits w) { s with response := none } :=
  step_offer { s with response := none } (tableWord nbits w) s.host rfl

theorem decode_tableWord_of_decodeTableWord {nbits w : Nat} {i : Instr}
    (h : decodeTableWord nbits w = some i) : decode (tableWord nbits w) = .ok i := by
  unfold decodeTableWord at h
  split at h
  · cases h
  split at h
  next hd => exact hd.trans (congrArg Except.ok (Option.some.inj h))
  · cases h

/-- Settles O12: a word at the port and a word that `withFetchWord` places are both executed at the
step, whether they decode or not. -/
theorem stepRunsTheDecodedCommand : Obligations.StepRunsTheDecodedCommand := by
  refine ⟨fun s hr hrst hv => ?_, fun s nbits w => ⟨step_withFetchWord s nbits w, fun i hd => ?_⟩⟩
  · have hx := step_of_cmdValid hr hrst hv
    exact ⟨hx, fun i hd => hx.trans (execute_of_decode_eq_ok hd _),
      fun hs hw => hx.trans (execute_of_reservedWord (s := s.passEdge) ((inv_iff s).2 hs) hw)⟩
  · rw [step_withFetchWord, execute_of_decode_eq_ok (decode_tableWord_of_decodeTableWord hd)]

/-! ### The response to an accepted word -/

/-- Everything an accepted word can leave: the effect and the answer of the command it decodes to, or an
error that writes ERRF alone. -/
theorem execute_next_cases {w : Word} {s t : State} (h : execute w s = .next t) :
    (∃ i, decode w = .ok i ∧ t = (effect i s).offer .ok (answerData i s)) ∨
      ∃ c, t = (s.recordError c).offer c 0#32 := by
  obtain ⟨-, ⟨i, hd, hx⟩ | ⟨e, -, hf⟩⟩ := execute_next h
  · obtain ⟨-, ⟨-, -, ht⟩ | herr⟩ := exec_next_cases hx
    · exact .inl ⟨i, hd, ht⟩
    · exact .inr herr
  · cases hf
    exact .inr ⟨_, rfl⟩

/-- DATA is 0 for every command that is neither SQUEEZE nor STATUS (R92). -/
theorem answerData_eq_zero {i : Instr} (s : State) (hq : i ≠ .squeeze) (hst : ∀ sel, i ≠ .status sel) :
    answerData i s = 0#32 := by
  cases i with
  | squeeze => exact absurd rfl hq
  | status sel => exact absurd rfl (hst sel)
  | _ => rfl

/-- SQUEEZE answers with a byte (R179). -/
theorem answerData_squeeze_lt (s : State) : (answerData .squeeze s).toNat < 256 := by
  rw [answerData, zext32, BitVec.toNat_setWidth_of_le (by decide)]
  exact BitVec.isLt _

/-- RCODE is one of the four codes 0 to 3 (R231). -/
theorem ErrCode.toNat_code_le (c : ErrCode) : c.code.toNat ≤ 3 := by
  cases c <;> decide

/-- No further word is taken while a response is offered (R265). -/
theorem State.cmdReady_offer (s : State) (c : ErrCode) (d : Word) (p : HostPins) :
    (s.offer c d).cmdReady p = false := by
  simp [State.cmdReady]

/-- Settles O15: a command that completes offers its `answerData`, and an error offers DATA = 0. -/
theorem everyAcceptedWordIsAnswered : Obligations.EveryAcceptedWordIsAnswered := by
  intro s t hrst hv hr h
  rw [step_of_cmdValid hr hrst hv] at h
  obtain ⟨i, hd, rfl⟩ | ⟨c, rfl⟩ := execute_next_cases h
  · have hi : ∀ j, decode s.pins.cmdWord = .ok j → j = i := fun j hj => Except.ok.inj (hj.symm.trans hd)
    refine ⟨_, rfl, State.cmdReady_offer _ _ _, ErrCode.ok.toNat_code_le, fun hne => absurd rfl hne,
      fun j hj hq hst => ?_, fun hsq => ?_⟩
    · exact answerData_eq_zero _ (hi j hj ▸ hq) (hi j hj ▸ hst)
    · exact hi _ hsq ▸ answerData_squeeze_lt s.passEdge
  · exact ⟨_, rfl, State.cmdReady_offer _ _ _, c.toNat_code_le, fun _ => rfl, fun _ _ _ _ => rfl,
      fun _ => by simp⟩

/-! ### The assembler -/

section Assembler
open Asm

theorem wellFormed_of_mem_absorbs {M : List Byte} {i : Instr} (h : i ∈ absorbs M) : WellFormed i := by
  obtain ⟨b, -, rfl⟩ := List.mem_map.1 h
  rfl

theorem wellFormed_of_mem_squeezeN {n : Nat} {i : Instr} (h : i ∈ squeezeN n) : WellFormed i := by
  obtain rfl := List.eq_of_mem_replicate h
  rfl

/-- Whatever a hash transaction absorbs and squeezes after the commands `pre`, it holds no illegal
command where `pre` holds none. -/
theorem wellFormed_of_mem_transaction {pre : List Instr} (hpre : ∀ j ∈ pre, WellFormed j)
    {M : List Byte} {n : Nat} {i : Instr} (h : i ∈ pre ++ absorbs M ++ [.final] ++ squeezeN n) :
    WellFormed i := by
  simp only [List.mem_append, List.mem_singleton] at h
  obtain ((h | h) | rfl) | h := h
  · exact hpre i h
  · exact wellFormed_of_mem_absorbs h
  · rfl
  · exact wellFormed_of_mem_squeezeN h

theorem wellFormed_of_mem_hashCommands {rate cap : BitVec 11} {sfx : Byte} {M : List Byte} {n : Nat}
    {i : Instr} (h : i ∈ hashCommands rate cap sfx M n) : WellFormed i :=
  wellFormed_of_mem_transaction (by simp [WellFormed, Instr.wellFormed]) h

theorem wellFormed_of_mem_keccak256Commands {M : List Byte} {i : Instr}
    (h : i ∈ keccak256Commands M) : WellFormed i :=
  wellFormed_of_mem_transaction (by decide) h

/-- A text gives commands of R86 only, if it gives any. -/
def GivesCommands (o : Option (List Instr)) : Prop := ∀ is, o = some is → ∀ i ∈ is, WellFormed i

theorem givesCommands_none : GivesCommands none := nofun

theorem givesCommands_some {is : List Instr} (h : ∀ i ∈ is, WellFormed i) : GivesCommands (some is) :=
  fun _ hi => Option.some.inj hi ▸ h

theorem givesCommands_singleton {i : Instr} (h : WellFormed i) : GivesCommands (some [i]) :=
  givesCommands_some fun _ hj => List.mem_singleton.1 hj ▸ h

/-- Behind a range check the commands may rest on the check. -/
theorem givesCommands_ite {c : Prop} [Decidable c] {o : Option (List Instr)}
    (h : c → GivesCommands o) : GivesCommands (if c then o else none) := by
  split
  next hc => exact h hc
  next => exact givesCommands_none

theorem givesCommands_map {α : Type} {o : Option α} {f : α → List Instr}
    (h : ∀ a, ∀ i ∈ f a, WellFormed i) : GivesCommands (o.map f) := by
  cases o with
  | none => exact givesCommands_none
  | some a => exact givesCommands_some (h a)

/-- STATUS's range check leaves out the one selector that is no command (R89). -/
theorem wellFormed_status_ofNat {v : Nat} (h : v < 3) : WellFormed (.status (BitVec.ofNat 2 v)) := by
  rw [wellFormed_status_iff]
  interval_cases v <;> decide

/-- Every mnemonic stands for well-formed commands only. -/
theorem givesCommands_expand (m : Mnemonic) (ops : List Operand) : GivesCommands (expand m ops) := by
  unfold expand
  split
  case h_10 => exact givesCommands_ite fun hv => givesCommands_singleton (wellFormed_status_ofNat hv)
  case h_2 | h_3 | h_6 => exact givesCommands_ite fun _ => givesCommands_singleton rfl
  case h_12 => exact givesCommands_map fun _ _ => wellFormed_of_mem_absorbs
  case h_13 => exact givesCommands_some fun _ => wellFormed_of_mem_squeezeN
  case h_14 =>
    split
    · exact givesCommands_ite fun _ => givesCommands_some fun _ => wellFormed_of_mem_hashCommands
    · exact givesCommands_none
  case h_15 => exact givesCommands_map fun _ _ => wellFormed_of_mem_keccak256Commands
  case h_16 => exact givesCommands_none
  all_goals exact givesCommands_singleton rfl

/-- A line stands for nothing, is an error, or is what its mnemonic expands to. -/
theorem givesCommands_line (cs : List Char) : GivesCommands (line cs) := by
  simp only [line]
  split
  · exact givesCommands_some fun _ h => absurd h List.not_mem_nil
  split
  · exact givesCommands_expand _ _
  · exact givesCommands_none

/-- Settles O54: each word is the word of one of the line's commands, and those are well-formed. -/
theorem assemblerBuildsOnlyCommands : Obligations.AssemblerBuildsOnlyCommands := by
  intro cs ws h w hw
  obtain ⟨is, his, rfl⟩ := Option.map_eq_some_iff.1 h
  obtain ⟨i, hi, rfl⟩ := List.mem_map.1 hw
  have hwf := givesCommands_line cs is his i hi
  exact ⟨i, hwf, decode_encode hwf⟩

end Assembler

end Sys2Proof.Machine

/-! PROOFS. The statements of spec/40_round_constants.md: the LFSR's step and period, the round constants,
the ι step, and the permutation by either source of the constants. -/

namespace Sys2Proof.Machine

/-! ### The LFSR -/

/-- The register after one call (R112). -/
def lfsrNext (l : Byte) : Byte := (lfsrStep l).1

/-- The register in numbers: twice the old value, with the feedback byte where bit 7 was set (R112). -/
theorem toNat_lfsrNext (l : Byte) : (lfsrNext l).toNat =
    if 128 ≤ l.toNat then (2 * l.toNat % 256) ^^^ 0x71 else 2 * l.toNat % 256 := by
  have hshift : (l <<< 1).toNat = 2 * l.toNat % 256 := by
    rw [BitVec.toNat_shiftLeft, Nat.shiftLeft_eq, pow_one, mul_comm]
  have hcarry : l.getLsbD 7 = decide (128 ≤ l.toNat) := BitVec.msb_eq_decide l
  simp only [lfsrNext, lfsrStep, hcarry, decide_eq_true_eq]
  split
  · rw [BitVec.toNat_xor, hshift]
    rfl
  · exact hshift

/-- The bit returned is bit 1 of the new register by definition; the feedback byte has no bit 1, so it is
the old bit 0 (R113). -/
theorem lfsrStep_bit (l : Byte) : (lfsrStep l).2 = l.getLsbD 0 := by
  have hshift : (l <<< 1).getLsbD 1 = l.getLsbD 0 := by simp
  have hfeedback : (0x71#8).getLsbD 1 = false := by decide
  simp only [lfsrStep]
  split
  · rw [BitVec.getLsbD_xor, hshift, hfeedback, Bool.xor_false]
  · exact hshift

/-- Settles O37: the new register in numbers, the bit returned, and the register 0. -/
theorem lfsrStepRule : Obligations.LfsrStepRule :=
  ⟨toNat_lfsrNext, fun l => ⟨lfsrStep_bit l, rfl⟩, by decide⟩

/-- Many calls are one call iterated, so Mathlib's theory of periodic points speaks of the register. -/
theorem lfsrAfter_eq_iterate (n : Nat) (l : Byte) : lfsrAfter n l = lfsrNext^[n] l := by
  induction n generalizing l with
  | zero => rfl
  | succ n ih => exact ih (lfsrNext l)

/-- One call more, made last. -/
theorem lfsrAfter_succ (n : Nat) (l : Byte) : lfsrAfter (n + 1) l = (lfsrStep (lfsrAfter n l)).1 := by
  simp only [lfsrAfter_eq_iterate, Function.iterate_succ_apply']
  rfl

/-- The seed comes back after 255 calls (R114). -/
theorem lfsrNext_isPeriodicPt_seed : Function.IsPeriodicPt lfsrNext 255 lfsrSeed := by
  decide +kernel

/-- A divisor of 255 = 3 · 5 · 17 is 255 or divides one of 85, 51 and 15. -/
theorem dvd_of_dvd_255 {m : Nat} (h : m ∣ 255) : m = 255 ∨ m ∣ 85 ∨ m ∣ 51 ∨ m ∣ 15 := by
  have hdiv : ∀ d ∈ Nat.divisors 255, d = 255 ∨ d ∣ 85 ∨ d ∣ 51 ∨ d ∣ 15 := by decide +kernel
  exact hdiv m (Nat.mem_divisors.2 ⟨h, by decide⟩)

/-- The seed's least period is 255: it divides 255, and 85, 51 and 15 calls do not return to the seed. -/
theorem minimalPeriod_lfsrSeed : Function.minimalPeriod lfsrNext lfsrSeed = 255 := by
  have hne : ∀ n ∈ [85, 51, 15], ¬Function.minimalPeriod lfsrNext lfsrSeed ∣ n := by
    simp only [← Function.isPeriodicPt_iff_minimalPeriod_dvd]
    decide +kernel
  simp only [List.forall_mem_cons] at hne
  obtain ⟨h85, h51, h15, -⟩ := hne
  rcases dvd_of_dvd_255 lfsrNext_isPeriodicPt_seed.minimalPeriod_dvd with h | h | h | h
  · exact h
  · exact absurd h h85
  · exact absurd h h51
  · exact absurd h h15

/-- The period holds all along the seed's cycle. -/
theorem minimalPeriod_lfsrNext_iterate (k : Nat) :
    Function.minimalPeriod lfsrNext (lfsrNext^[k] lfsrSeed) = 255 := by
  rw [Function.minimalPeriod_apply_iterate ⟨255, by decide, lfsrNext_isPeriodicPt_seed⟩,
    minimalPeriod_lfsrSeed]

/-- 0 steps to itself, so it has period 1 and is not on the seed's cycle (R115). -/
theorem lfsrNext_iterate_seed_ne_zero (k : Nat) : lfsrNext^[k] lfsrSeed ≠ 0x00#8 := by
  intro h
  have hzero : Function.minimalPeriod lfsrNext 0x00#8 = 1 :=
    Function.minimalPeriod_eq_one_iff_isFixedPt.2 (by decide : lfsrNext 0x00#8 = 0x00#8)
  have := minimalPeriod_lfsrNext_iterate k
  rw [h, hzero] at this
  omega

/-- The LFSR is of maximal length: the 255 values on the seed's cycle differ and are not 0, so they are
all the non-zero bytes. -/
theorem exists_lfsrNext_iterate_seed_eq {l : Byte} (h : l ≠ 0x00#8) :
    ∃ k, lfsrNext^[k] lfsrSeed = l := by
  have hmaps : Set.MapsTo (lfsrNext^[·] lfsrSeed) (Finset.range 255)
      (Finset.univ.erase (0x00#8 : Byte)) := fun k _ => by
    simpa using lfsrNext_iterate_seed_ne_zero k
  have hinj : Set.InjOn (lfsrNext^[·] lfsrSeed) (Finset.range 255) := by
    rw [Finset.coe_range, ← minimalPeriod_lfsrSeed]
    exact Function.iterate_injOn_Iio_minimalPeriod
  have hcard : (Finset.univ.erase (0x00#8 : Byte)).card ≤ (Finset.range 255).card := by
    rw [Finset.card_erase_of_mem (Finset.mem_univ _), Finset.card_univ, ← FinEnum.card_eq_fintypeCard,
      FinEnum.card_bitVec, Finset.card_range]
    decide
  obtain ⟨k, -, hk⟩ := Finset.surjOn_of_injOn_of_card_le _ hmaps hinj hcard (by simpa using h)
  exact ⟨k, hk⟩

/-- R114: the least period of every non-zero register value is 255. -/
theorem minimalPeriod_lfsrNext {l : Byte} (h : l ≠ 0x00#8) : Function.minimalPeriod lfsrNext l = 255 := by
  obtain ⟨k, rfl⟩ := exists_lfsrNext_iterate_seed_eq h
  exact minimalPeriod_lfsrNext_iterate k

/-- Settles O38: every non-zero value lies on the seed's cycle, whose least period is 255 and which does
not pass 0. -/
theorem lfsrPeriod : Obligations.LfsrPeriod := by
  simp only [Obligations.LfsrPeriod, lfsrAfter_eq_iterate]
  refine ⟨fun l hl => ⟨fun k => ?_, fun k hpos hlt => ?_⟩, lfsrNext_iterate_seed_ne_zero,
    by decide +kernel⟩
  · rw [← minimalPeriod_lfsrNext hl, Function.iterate_add_minimalPeriod_eq]
  · exact Function.not_isPeriodicPt_of_pos_of_lt_minimalPeriod hpos.ne'
      (hlt.trans_eq (minimalPeriod_lfsrNext hl).symm)

/-! ### The round constants -/

/-- The term that call `k` contributes as bit `j` of its round (R116). -/
def rcTerm (k j : Nat) : Lane := if lfsrBit k then 1#64 <<< rcBitPos j else 0#64

/-- R117's sum cut off after `n` terms, for the round whose bits start at call `k`. -/
def rcPrefix (k n : Nat) : Lane := (List.range n).foldl (fun acc j => acc ^^^ rcTerm (k + j) j) 0#64

theorem rcPrefix_succ (k n : Nat) : rcPrefix k (n + 1) = rcPrefix k n ^^^ rcTerm (k + n) n := by
  simp [rcPrefix, List.range_succ]

theorem roundConstant_eq_rcPrefix (i : Nat) : roundConstant i = rcPrefix (7 * i) 7 := rfl

/-- The bit that call `k` returns can set bit `2^j - 1` only (R116). -/
theorem eq_rcBitPos_of_getLsbD_rcTerm {k j z : Nat} (h : (rcTerm k j).getLsbD z = true) :
    z = rcBitPos j := by
  unfold rcTerm at h
  split at h
  · have hpow : (BitVec.twoPow 64 (rcBitPos j)).getLsbD z = true := h
    rw [BitVec.getLsbD_twoPow, Bool.and_eq_true, decide_eq_true_eq, decide_eq_true_eq] at hpow
    exact hpow.2.symm
  · simp at h

theorem exists_eq_rcBitPos_of_getLsbD_rcPrefix {k n z : Nat} (h : (rcPrefix k n).getLsbD z = true) :
    ∃ j < n, z = rcBitPos j := by
  induction n with
  | zero => simp [rcPrefix] at h
  | succ n ih =>
    rw [rcPrefix_succ, BitVec.getLsbD_xor] at h
    by_cases hz : (rcPrefix k n).getLsbD z = true
    · obtain ⟨j, hj, rfl⟩ := ih hz
      exact ⟨j, by omega, rfl⟩
    · exact ⟨n, by omega, eq_rcBitPos_of_getLsbD_rcTerm (by simpa [hz] using h)⟩

theorem map_roundConstant_eq_rcTable : (List.range 24).map roundConstant = rcTable := by
  decide +kernel

theorem roundConstant_eq_getD_rcTable {i : Nat} (hi : i < 24) : roundConstant i = rcTable.getD i 0#64 := by
  simp [← map_roundConstant_eq_rcTable, hi]

/-- Settles O39: the table is computed, and R117's formula has terms at those seven positions only. -/
theorem roundConstantTable : Obligations.RoundConstantTable := by
  refine ⟨map_roundConstant_eq_rcTable, fun rc hrc z _ hbit => ?_⟩
  rw [← map_roundConstant_eq_rcTable] at hrc
  obtain ⟨i, -, rfl⟩ := List.mem_map.1 hrc
  rw [roundConstant_eq_rcPrefix] at hbit
  obtain ⟨j, hj, rfl⟩ := exists_eq_rcBitPos_of_getLsbD_rcPrefix hbit
  interval_cases j <;> decide

/-! ### The ι step

`xorOrigin` is the one write that ι makes. The register before call `k` is `lfsrAfter k lfsrSeed`, so what
the next `n` calls put into lane (0, 0) is `rcPrefix k n`. -/

/-- XOR a value into lane (0, 0). -/
def xorOrigin (A : Lanes) (v : Lane) : Lanes := setLane A 0 0 (laneAt A 0 0 ^^^ v)

@[simp] theorem laneAt_xorOrigin_origin (A : Lanes) (v : Lane) :
    laneAt (xorOrigin A v) 0 0 = laneAt A 0 0 ^^^ v :=
  laneAt_setLane_same _ _ _ _

theorem laneAt_xorOrigin_of_ne (A : Lanes) (v : Lane) {x y : Fin 5} (h : ¬(x = 0 ∧ y = 0)) :
    laneAt (xorOrigin A v) x y = laneAt A x y :=
  laneAt_setLane_of_ne _ _ h

@[simp] theorem xorOrigin_zero (A : Lanes) : xorOrigin A 0#64 = A := by
  apply lanes_ext
  intro x y
  by_cases h : x = 0 ∧ y = 0
  · obtain ⟨rfl, rfl⟩ := h
    simp
  · exact laneAt_xorOrigin_of_ne _ _ h

@[simp] theorem xorOrigin_xorOrigin (A : Lanes) (v w : Lane) :
    xorOrigin (xorOrigin A v) w = xorOrigin A (v ^^^ w) := by
  apply lanes_ext
  intro x y
  by_cases h : x = 0 ∧ y = 0
  · obtain ⟨rfl, rfl⟩ := h
    simp [BitVec.xor_assoc]
  · simp only [laneAt_xorOrigin_of_ne _ _ h]

/-- Generator bit `j`, taken by call `k` (R139). -/
theorem iotaStep_lfsrAfter (A : Lanes) (k j : Nat) :
    iotaStep (A, lfsrAfter k lfsrSeed) j =
      (xorOrigin A (rcTerm k j), lfsrAfter (k + 1) lfsrSeed) := by
  have hbit : (lfsrStep (lfsrAfter k lfsrSeed)).2 = lfsrBit k := rfl
  simp only [iotaStep, hbit, ← lfsrAfter_succ, rcTerm]
  split
  · rfl
  · rw [xorOrigin_zero]

/-- The first `n` generator bits of a round whose bits start at call `k`. -/
theorem foldl_iotaStep (A : Lanes) (k n : Nat) :
    (List.range n).foldl iotaStep (A, lfsrAfter k lfsrSeed) =
      (xorOrigin A (rcPrefix k n), lfsrAfter (k + n) lfsrSeed) := by
  induction n with
  | zero => simp [rcPrefix]
  | succ n ih =>
    rw [List.range_succ, List.foldl_append, ih, List.foldl_cons, List.foldl_nil, iotaStep_lfsrAfter,
      xorOrigin_xorOrigin, ← rcPrefix_succ, Nat.add_assoc]

/-- ι in round `i` XORs RC(i) into lane (0, 0) and advances the register by seven calls (R116, R117,
R139), for every `i`. -/
theorem iota_lfsrAfter (A : Lanes) (i : Nat) :
    iota A (lfsrAfter (7 * i) lfsrSeed) =
      (xorOrigin A (roundConstant i), lfsrAfter (7 * (i + 1)) lfsrSeed) :=
  foldl_iotaStep A (7 * i) 7

/-- Settles O40: ι XORs RC(i) of R117 into lane (0, 0), and the table holds RC(i). -/
theorem iotaXorsTheRoundConstant : Obligations.IotaXorsTheRoundConstant := by
  intro A i hi
  rw [iota_lfsrAfter, roundConstant_eq_getD_rcTable hi]
  exact ⟨rfl, laneAt_xorOrigin_origin _ _, fun x y => laneAt_xorOrigin_of_ne _ _⟩

/-! ### The permutation by either source of round constants -/

/-- Round `i` with the LFSR is the round with RC(i) read from a table. -/
theorem keccakRound_lfsrAfter (A : Lanes) (i : Nat) :
    keccakRound (A, lfsrAfter (7 * i) lfsrSeed) =
      (tableRound A (roundConstant i), lfsrAfter (7 * (i + 1)) lfsrSeed) :=
  iota_lfsrAfter (chi (rhoPi (theta A))) i

/-- The first `n` rounds with the LFSR are the rounds with RC(0), …, RC(n - 1) read from a table. -/
theorem foldl_keccakRound (A : Lanes) (n : Nat) :
    (List.range n).foldl (fun a _ => keccakRound a) (A, lfsrSeed) =
      (((List.range n).map roundConstant).foldl tableRound A, lfsrAfter (7 * n) lfsrSeed) := by
  induction n with
  | zero => rfl
  | succ n ih =>
    simp only [List.range_succ, List.map_append, List.foldl_append, ih, List.map_cons, List.map_nil,
      List.foldl_cons, List.foldl_nil, keccakRound_lfsrAfter]

theorem keccakLanes_eq_foldl_tableRound (A : Lanes) : keccakLanes A = rcTable.foldl tableRound A := by
  rw [keccakLanes_eq, foldl_keccakRound, map_roundConstant_eq_rcTable]

/-- Settles O41: round by round, the constant the LFSR makes is the one the table holds. -/
theorem roundConstantSourceNotObservable : Obligations.RoundConstantSourceNotObservable := by
  intro src S
  cases src with
  | lfsr => rfl
  | table => rw [keccakF_eq, keccakLanes_eq_foldl_tableRound, keccakFWith]

end Sys2Proof.Machine

/-! PROOFS. The statements of spec/41_permutation.md: the run that never stops, the θ, ρπ and χ steps, and
KeccakF as a bijection. -/

namespace Sys2Proof.Machine

/-! ### Every edge answers -/

/-- Where the invariants hold, every command answers: it completes or fails (R170, R230). -/
theorem exists_exec_eq_next {s : State} (hi : s.Inv) (i : Instr) : ∃ t, exec i s = .next t := by
  rw [exec_eq_command]
  cases hl : legalIn i s.phase with
  | false => exact ⟨_, command_seq hi hl _⟩
  | true =>
    rw [command_legal hi hl, execBody_eq]
    cases operandError i <;> exact ⟨_, rfl⟩

/-- Where the invariants hold, every accepted word answers, an illegal one too. -/
theorem exists_execute_eq_next {s : State} (hi : s.Inv) (w : Word) : ∃ t, execute w s = .next t := by
  unfold execute
  split
  · exact exists_exec_eq_next hi _
  · exact ⟨_, guardInv_of_inv hi _⟩

/-- Where the invariants hold, every edge answers a next state. -/
theorem exists_step_eq_next {s : State} (hi : s.Inv) : ∃ t, step s = .next t := by
  unfold step
  split
  · exact ⟨_, rfl⟩
  · split
    · exact exists_execute_eq_next (s := s.passEdge) hi _
    · exact ⟨_, guardInv_of_inv hi _⟩

/-- Where the invariants hold, a run of any length answers. -/
theorem exists_run_eq_next (k : Nat) {s : State} (hs : StateInvariants s) :
    ∃ t, Host.Core.run core k s = .next t := by
  induction k generalizing s with
  | zero => exact ⟨s, rfl⟩
  | succ k ih =>
    obtain ⟨s', hstep⟩ := exists_step_eq_next ((inv_iff s).2 hs)
    obtain ⟨t, hrun⟩ := ih (stepKeepsTheInvariants s s' hs hstep)
    have hcore : core.step s = .next s' := hstep
    exact ⟨t, by simpa only [Host.Core.run, hcore] using hrun⟩

/-- Settles O11: every edge answers where the invariants hold, and it keeps them. -/
theorem everyRunGoesOn : Obligations.EveryRunGoesOn :=
  fun _ _ hs k _ => exists_run_eq_next k hs

/-! ### Rotation of lanes -/

/-- Bit `i` of a rotated lane, with the position taken modulo 64. -/
theorem getLsbD_rotateLeft_eq_mod (v : Lane) (n : Nat) {i : Nat} (hi : i < 64) :
    (v.rotateLeft n).getLsbD i = v.getLsbD ((i + (64 - n % 64)) % 64) := by
  rw [BitVec.getLsbD_rotateLeft, Bool.cond_decide]
  split
  · congr 1
    omega
  · simp only [hi, decide_true, Bool.true_and]
    congr 1
    omega

theorem rotateLeft_xor (v w : Lane) (n : Nat) :
    (v ^^^ w).rotateLeft n = v.rotateLeft n ^^^ w.rotateLeft n := by
  apply BitVec.eq_of_getLsbD_eq
  intro i hi
  simp only [BitVec.getLsbD_xor, getLsbD_rotateLeft_eq_mod _ n hi]

theorem rotateLeft_rotateLeft (v : Lane) (m n : Nat) :
    (v.rotateLeft m).rotateLeft n = v.rotateLeft (m + n) := by
  apply BitVec.eq_of_getLsbD_eq
  intro i hi
  rw [getLsbD_rotateLeft_eq_mod _ n hi, getLsbD_rotateLeft_eq_mod _ m (by omega),
    getLsbD_rotateLeft_eq_mod _ (m + n) hi]
  congr 1
  omega

/-- Whole turns change nothing. -/
theorem rotateLeft_of_mod_eq_zero (v : Lane) {n : Nat} (h : n % 64 = 0) : v.rotateLeft n = v := by
  apply BitVec.eq_of_getLsbD_eq
  intro i hi
  rw [getLsbD_rotateLeft_eq_mod v n hi, h]
  congr 1
  omega

theorem rotateLeft_injective (n : Nat) : Function.Injective fun v : Lane => v.rotateLeft n := by
  refine Function.LeftInverse.injective (g := fun v : Lane => v.rotateLeft (63 * n)) fun v => ?_
  have hturns : (n + 63 * n) % 64 = 0 := by omega
  exact (rotateLeft_rotateLeft v n _).trans (rotateLeft_of_mod_eq_zero v hturns)

/-! ### θ -/

theorem laneAt_theta (A : Lanes) (x y : Fin 5) :
    laneAt (theta A) x y =
      laneAt A x y ^^^ (columnParity A (x + 4) ^^^ (columnParity A (x + 1)).rotateLeft 1) := by
  simp [theta, thetaD, columnParities, rotl64]

/-- Settles O42: θ lane by lane (`laneAt_theta`), where a zero parity changes nothing. -/
theorem thetaUsesOldParities : Obligations.ThetaUsesOldParities := by
  intro A
  refine ⟨laneAt_theta A, fun hC => lanes_ext fun x y => ?_⟩
  have hzero : ∀ x, columnParity A x = 0#64 := hC
  rw [laneAt_theta, hzero, hzero]
  simp [BitVec.rotateLeft_def]

/-! θ acts on the five column parities as `1 + u`, where `u` adds a move by one column each way, one of
the two rotated. Over bits `(1 + u)^(2^k) = 1 + u^(2^k)`: repeating the map doubles the moves and the
rotation, and the cross terms cancel. At 64 the rotation has gone full circle, and what is left is undone
by the map at 128. -/

/-- Add to every parity the parities `n` columns to either side, one of them rotated by `n`. -/
def parityMix (n : Nat) (C : Fin 5 → Lane) : Fin 5 → Lane := fun x =>
  C x ^^^ (C (x - Fin.ofNat 5 n) ^^^ (C (x + Fin.ofNat 5 n)).rotateLeft n)

/-- The value that θ XORs into all five lanes of a column is in the column's parity once. -/
theorem xor_same_five (a b c d e v : Lane) :
    (a ^^^ v) ^^^ (b ^^^ v) ^^^ (c ^^^ v) ^^^ (d ^^^ v) ^^^ (e ^^^ v) =
      (a ^^^ b ^^^ c ^^^ d ^^^ e) ^^^ v := by
  calc _ = (v ^^^ v) ^^^ ((v ^^^ v) ^^^ ((a ^^^ b ^^^ c ^^^ d ^^^ e) ^^^ v)) := by ac_rfl
    _ = _ := by simp only [BitVec.xor_self, BitVec.zero_xor]

theorem columnParity_theta (A : Lanes) : columnParity (theta A) = parityMix 1 (columnParity A) := by
  funext x
  have hleft : x + 4 = x - Fin.ofNat 5 1 := by decide +revert
  have hright : x + 1 = x + Fin.ofNat 5 1 := rfl
  rw [columnParity]
  simp only [laneAt_theta, xor_same_five, hleft, hright]
  rfl

theorem xor_cross_terms_cancel (u v w p q r : Lane) :
    (u ^^^ (v ^^^ w)) ^^^ ((v ^^^ (p ^^^ q)) ^^^ (w ^^^ (q ^^^ r))) = u ^^^ (p ^^^ r) := by
  calc _ = (v ^^^ v) ^^^ ((w ^^^ w) ^^^ ((q ^^^ q) ^^^ (u ^^^ (p ^^^ r)))) := by ac_rfl
    _ = _ := by simp only [BitVec.xor_self, BitVec.zero_xor]

theorem parityMix_parityMix (n : Nat) (C : Fin 5 → Lane) :
    parityMix n (parityMix n C) = parityMix (n + n) C := by
  funext x
  have hmoves : Fin.ofNat 5 (n + n) = Fin.ofNat 5 n + Fin.ofNat 5 n := by simp [Fin.ofNat, Fin.add_def]
  simp only [parityMix, rotateLeft_xor, rotateLeft_rotateLeft, hmoves, sub_add_cancel,
    add_sub_cancel_right, sub_sub, add_assoc, xor_cross_terms_cancel]

theorem parityMix_one_iterate_two_pow (k : Nat) : (parityMix 1)^[2 ^ k] = parityMix (2 ^ k) := by
  induction k with
  | zero => rfl
  | succ k ih =>
    funext C
    rw [pow_succ, Nat.mul_two, Function.iterate_add_apply, ih, parityMix_parityMix]

theorem xor_four_pairs_cancel (u v w p q : Lane) :
    (u ^^^ (v ^^^ w)) ^^^ ((p ^^^ (q ^^^ v)) ^^^ (q ^^^ (w ^^^ p))) = u := by
  calc _ = (v ^^^ v) ^^^ ((w ^^^ w) ^^^ ((p ^^^ p) ^^^ ((q ^^^ q) ^^^ u))) := by ac_rfl
    _ = _ := by simp only [BitVec.xor_self, BitVec.zero_xor]

/-- At 64 the moves are by one column, at 128 by two, and neither rotates: together they add each of the
four other parities twice. -/
theorem parityMix_128_parityMix_64 (C : Fin 5 → Lane) : parityMix 128 (parityMix 64 C) = C := by
  funext x
  have h64 : Fin.ofNat 5 64 = 4 := rfl
  have h128 : Fin.ofNat 5 128 = 3 := rfl
  have hsub4 : ∀ y : Fin 5, y - 4 = y + 1 := by decide
  have hsub3 : ∀ y : Fin 5, y - 3 = y + 2 := by decide
  simp only [parityMix, rotateLeft_of_mod_eq_zero, h64, h128, hsub4, hsub3, add_assoc, Fin.reduceAdd]
  exact xor_four_pairs_cancel _ _ _ _ _

theorem parityMix_one_injective : Function.Injective (parityMix 1) := by
  have h64 : Function.Injective ((parityMix 1)^[2 ^ 6]) := by
    rw [parityMix_one_iterate_two_pow]
    exact Function.LeftInverse.injective parityMix_128_parityMix_64
  have hsucc : 2 ^ 6 = 63 + 1 := rfl
  rw [hsucc, Function.iterate_succ] at h64
  exact h64.of_comp

theorem theta_injective : Function.Injective theta := by
  intro A B h
  have hC : columnParity A = columnParity B :=
    parityMix_one_injective (by rw [← columnParity_theta, ← columnParity_theta, h])
  apply lanes_ext
  intro x y
  have hlane : laneAt (theta A) x y = laneAt (theta B) x y := by rw [h]
  rw [laneAt_theta, laneAt_theta, hC] at hlane
  exact (BitVec.xor_left_inj _).1 hlane

/-! ### ρπ -/

/-- Where the ρπ walk stands before step `t` (R134, R137). -/
def walkPos : Nat → Fin 5 × Fin 5
  | 0 => (1, 0)
  | t + 1 => ((walkPos t).2, 2 * (walkPos t).1 + 3 * (walkPos t).2)

/-- The rotation of step `t` (R135). -/
def walkOffset (t : Nat) : Nat := (t + 1) * (t + 2) / 2 % 64

theorem rhoPiTable_eq_map :
    rhoPiTable = (List.range 24).map fun t => (walkPos (t + 1), walkPos t, walkOffset t) := by
  decide

/-- The walk writes no position twice. -/
theorem walkPos_succ_inj {s t : Nat} (hs : s < 24) (ht : t < 24)
    (h : walkPos (s + 1) = walkPos (t + 1)) : s = t := by
  have hnodup : (rhoPiTable.map Prod.fst).Nodup := by decide
  rw [rhoPiTable_eq_map, List.map_map] at hnodup
  exact List.inj_on_of_nodup_map hnodup (List.mem_range.2 hs) (List.mem_range.2 ht) h

/-- The walk over `A` before step `t`: the lanes of the steps taken are written from `A`, every other lane
is still `A`'s, and the lane carried is `A`'s at the position. -/
structure WalkInv (A : Lanes) (t : Nat) (w : WalkState) : Prop where
  pos : (w.x, w.y) = walkPos t
  acc : w.r = t * (t + 1) / 2
  carried : w.current = laneAt A (walkPos t).1 (walkPos t).2
  written : ∀ s < t, laneAt w.lanes (walkPos (s + 1)).1 (walkPos (s + 1)).2 =
    (laneAt A (walkPos s).1 (walkPos s).2).rotateLeft (walkOffset s)
  kept : ∀ x y, (∀ s < t, (x, y) ≠ walkPos (s + 1)) → laneAt w.lanes x y = laneAt A x y

/-- The walk's start. -/
def walkStart (A : Lanes) : WalkState := { lanes := A, x := 1, y := 0, current := laneAt A 1 0, r := 0 }

theorem rhoPi_eq_foldl (A : Lanes) : rhoPi A = ((List.range 24).foldl walkStep (walkStart A)).lanes := rfl

theorem walkInv_start (A : Lanes) : WalkInv A 0 (walkStart A) where
  pos := rfl
  acc := rfl
  carried := rfl
  written := nofun
  kept _ _ _ := rfl

theorem triangle_succ (t : Nat) : t * (t + 1) / 2 + (t + 1) = (t + 1) * (t + 2) / 2 := by
  rw [← Nat.add_mul_div_right _ _ (by decide : 0 < 2)]
  congr 1
  ring

/-- What a step writes and carries on, where the walk is as it should be. -/
theorem walkStep_eq {A : Lanes} {t : Nat} {w : WalkState} (h : WalkInv A t w) :
    walkStep w t =
      { lanes := setLane w.lanes (walkPos (t + 1)).1 (walkPos (t + 1)).2
          ((laneAt A (walkPos t).1 (walkPos t).2).rotateLeft (walkOffset t))
        x := (walkPos (t + 1)).1
        y := (walkPos (t + 1)).2
        current := laneAt w.lanes (walkPos (t + 1)).1 (walkPos (t + 1)).2
        r := (t + 1) * (t + 2) / 2 } := by
  have hx : w.x = (walkPos t).1 := congrArg Prod.fst h.pos
  have hy : w.y = (walkPos t).2 := congrArg Prod.snd h.pos
  simp only [walkStep, h.acc, triangle_succ, h.carried, hx, hy, walkPos, rotl64, walkOffset,
    Nat.mod_mod]

theorem walkInv_walkStep {A : Lanes} {t : Nat} (ht : t < 24) {w : WalkState} (h : WalkInv A t w) :
    WalkInv A (t + 1) (walkStep w t) := by
  have hnew : ∀ s < t, walkPos (s + 1) ≠ walkPos (t + 1) := fun s hs he =>
    hs.ne (walkPos_succ_inj (by omega) ht he)
  rw [walkStep_eq h]
  refine ⟨rfl, rfl, h.kept _ _ fun s hs => (hnew s hs).symm, ?written, ?kept⟩
  case written =>
    intro s hs
    obtain hlt | rfl := Nat.lt_succ_iff_lt_or_eq.1 hs
    · rw [laneAt_setLane_of_ne _ _ fun e => hnew s hlt (Prod.ext e.1 e.2)]
      exact h.written s hlt
    · exact laneAt_setLane_same _ _ _ _
  case kept =>
    intro x y hxy
    rw [laneAt_setLane_of_ne _ _ fun e => hxy t (by omega) (Prod.ext e.1 e.2)]
    exact h.kept x y fun s hs => hxy s (by omega)

theorem walkInv_foldl (A : Lanes) {t : Nat} (ht : t ≤ 24) :
    WalkInv A t ((List.range t).foldl walkStep (walkStart A)) := by
  induction t with
  | zero => exact walkInv_start A
  | succ t ih =>
    rw [List.range_succ, List.foldl_append]
    exact walkInv_walkStep ht (ih (by omega))

/-- Each row of R136's table holds of the walk. -/
theorem laneAt_rhoPi_of_mem {A : Lanes} {row : (Fin 5 × Fin 5) × (Fin 5 × Fin 5) × Nat}
    (h : row ∈ rhoPiTable) :
    laneAt (rhoPi A) row.1.1 row.1.2 = (laneAt A row.2.1.1 row.2.1.2).rotateLeft row.2.2 := by
  rw [rhoPiTable_eq_map] at h
  obtain ⟨t, ht, rfl⟩ := List.mem_map.1 h
  rw [rhoPi_eq_foldl]
  exact (walkInv_foldl A le_rfl).written t (List.mem_range.1 ht)

theorem laneAt_rhoPi_origin (A : Lanes) : laneAt (rhoPi A) 0 0 = laneAt A 0 0 := by
  rw [rhoPi_eq_foldl]
  exact (walkInv_foldl A le_rfl).kept 0 0 (by decide)

/-- Settles O43: the table is the walk's positions and rotations, and the walk keeps to it
(`laneAt_rhoPi_of_mem`). -/
theorem rhoPiClosedForm : Obligations.RhoPiClosedForm :=
  ⟨rfl, by decide, by decide, fun A => ⟨laneAt_rhoPi_origin A, fun _ => laneAt_rhoPi_of_mem⟩⟩

/-- Every lane but (0, 0) is the source of a row. -/
theorem exists_src_eq : ∀ x y : Fin 5, ¬(x = 0 ∧ y = 0) → ∃ row ∈ rhoPiTable, row.2.1 = (x, y) := by
  decide

theorem rhoPi_injective : Function.Injective rhoPi := by
  intro A B h
  apply lanes_ext
  intro x y
  by_cases h0 : x = 0 ∧ y = 0
  · obtain ⟨rfl, rfl⟩ := h0
    rw [← laneAt_rhoPi_origin A, h, laneAt_rhoPi_origin]
  · obtain ⟨row, hrow, hsrc⟩ := exists_src_eq x y h0
    have hlane : laneAt (rhoPi A) row.1.1 row.1.2 = laneAt (rhoPi B) row.1.1 row.1.2 := by rw [h]
    rw [laneAt_rhoPi_of_mem hrow, laneAt_rhoPi_of_mem hrow, hsrc] at hlane
    exact rotateLeft_injective _ hlane

/-! ### χ -/

theorem laneAt_chi (A : Lanes) (x y : Fin 5) :
    laneAt (chi A) x y = laneAt A x y ^^^ (~~~ (laneAt A (x + 1) y) &&& laneAt A (x + 2) y) :=
  laneAt_buildLanes _ x y

/-- Settles O44: χ lane by lane (`laneAt_chi`), and the three rows of R138 put into it. -/
theorem chiUsesOldRows : Obligations.ChiUsesOldRows := by
  intro A
  have hcols : ∀ x : Fin 5, x + 2 ≠ x ∧ x + 3 ≠ x ∧ x + 3 + 1 ≠ x ∧ x + 3 + 2 = x := by decide
  refine ⟨laneAt_chi A, fun y h x => ?_, fun y h x => ?_, fun x y h => ⟨?_, ?_⟩⟩
  · simp [laneAt_chi, h]
  · simp [laneAt_chi, h]
  · rw [laneAt_chi, h _ (hcols x).1, BitVec.and_zero, BitVec.xor_zero]
  · obtain ⟨-, h3, h4, h5⟩ := hcols x
    rw [laneAt_chi, h _ h3, h _ h4, h5, BitVec.not_zero, BitVec.allOnes_and, BitVec.zero_xor]

/-- χ on the five bits of a row at one bit position. -/
def chiRow (f : Fin 5 → Bool) : Fin 5 → Bool := fun x => f x ^^ (!f (x + 1) && f (x + 2))

/-- The five bits of row `y` at bit position `z`. -/
def rowBits (A : Lanes) (y : Fin 5) (z : Nat) : Fin 5 → Bool := fun x => (laneAt A x y).getLsbD z

theorem rowBits_chi (A : Lanes) (y : Fin 5) {z : Nat} (hz : z < 64) :
    rowBits (chi A) y z = chiRow (rowBits A y z) := by
  funext x
  simp [rowBits, chiRow, laneAt_chi, hz]

/-- χ tells the 32 rows apart. -/
theorem chiRow_injective : Function.Injective chiRow := by decide

theorem chi_injective : Function.Injective chi := by
  intro A B h
  apply lanes_ext
  intro x y
  apply BitVec.eq_of_getLsbD_eq
  intro z hz
  have hrow : rowBits A y z = rowBits B y z :=
    chiRow_injective (by rw [← rowBits_chi A y hz, ← rowBits_chi B y hz, h])
  exact congrFun hrow x

/-! ### KeccakF -/

theorem xorOrigin_injective (v : Lane) : Function.Injective (xorOrigin · v) :=
  Function.LeftInverse.injective (g := (xorOrigin · v)) fun A => by simp

theorem tableRound_injective (rc : Lane) : Function.Injective (tableRound · rc) :=
  (xorOrigin_injective rc).comp (chi_injective.comp (rhoPi_injective.comp theta_injective))

theorem foldl_tableRound_injective (rcs : List Lane) :
    Function.Injective fun A => rcs.foldl tableRound A := by
  induction rcs with
  | nil => exact Function.injective_id
  | cons rc rcs ih => exact ih.comp (tableRound_injective rc)

theorem keccakLanes_injective : Function.Injective keccakLanes := by
  rw [funext keccakLanes_eq_foldl_tableRound]
  exact foldl_tableRound_injective rcTable

theorem keccakF_injective : Function.Injective keccakF := by
  rw [funext keccakF_eq]
  exact (Function.LeftInverse.injective lanesOfBytes_bytesOfLanes).comp
    (keccakLanes_injective.comp (Function.LeftInverse.injective bytesOfLanes_lanesOfBytes))

theorem finite_stateBytes : Finite StateBytes :=
  Finite.of_injective (fun S (k : Fin 200) => byteAt S k.val) fun _ _ h =>
    stateBytes_ext fun k hk => congrFun h ⟨k, hk⟩

/-- Settles O45: each step of a round tells two states apart, so the 24 rounds do, and the states are
finite in number. -/
theorem keccakFIsABijection : Obligations.KeccakFIsABijection :=
  have := finite_stateBytes
  Finite.injective_iff_bijective.1 keccakF_injective

end Sys2Proof.Machine

/-! PROOFS. The statements of spec/42_sponge_commands.md, command by command: the phase table, the next
state of each command, the words that stand for it, and the permutations it runs. -/

namespace Sys2Proof.Machine

/-! ### The three ways a command ends -/

section Outcomes
variable {i : Instr} {s : State} (hi : s.Inv)
include hi

/-- A command that completes leaves its effect and answers OK (R170). -/
theorem exec_eq_answered (hl : legalIn i s.phase = true) (ho : operandError i = none) :
    exec i s = answered (answerData i s) (effect i s) :=
  exec_of_legal hi hl ho

/-- A command that its own operands make fail ends with their error. -/
theorem exec_eq_failedWith_of_operandError {c : ErrCode} (hl : legalIn i s.phase = true)
    (ho : operandError i = some c) : exec i s = failedWith c s := by
  rw [exec_eq_command, command_legal hi hl, execBody_eq, ho]
  exact fail_eq c s

/-- A command outside its phases fails with SEQ (R171). -/
theorem exec_eq_failedWith_seq (hl : legalIn i s.phase = false) : exec i s = failedWith .seq s := by
  rw [exec_eq_command, command_seq hi hl]
  exact fail_eq .seq s

/-- In a legal phase a command answers, and its error, if any, is not SEQ. -/
theorem exists_exec_eq_next_ne_seq (hl : legalIn i s.phase = true) :
    ∃ t r, exec i s = .next t ∧ t.response = some r ∧ r.code ≠ .seq := by
  cases ho : operandError i with
  | none => exact ⟨_, _, exec_eq_answered hi hl ho, rfl, nofun⟩
  | some c =>
    refine ⟨_, _, exec_eq_failedWith_of_operandError hi hl ho, rfl, ?_⟩
    rintro rfl
    cases i <;> simp [operandError] at ho

/-- The rule of R171 for a command whose legal phases are those that `legal` says. -/
theorem exec_phase_rule {legal : Prop} (h : legal ↔ legalIn i s.phase = true) :
    (¬legal → exec i s = failedWith .seq s) ∧
      (legal → ∃ t r, exec i s = .next t ∧ t.response = some r ∧ r.code ≠ .seq) :=
  ⟨fun hn => exec_eq_failedWith_seq hi (Bool.eq_false_iff.2 (mt h.2 hn)),
    fun hl => exists_exec_eq_next_ne_seq hi (h.1 hl)⟩

end Outcomes

/-- Settles O16: the table of R171 is `legalIn`, row by row. -/
theorem phaseTable : Obligations.PhaseTable := by
  intro i s hs legal
  refine exec_phase_rule ((inv_iff s).2 hs) ?_
  cases i <;> simp [legal, legalIn]

/-! ### The words of one opcode -/

/-- A word with the opcode and the operands of a well-formed command runs that command. -/
theorem execute_of_numbers {w : Word} {i : Instr} (hwf : WellFormed i)
    (ho : opcodeNumber w = opcodeOf i) (hb : belowOpcode w = operandValue i) (s : State) :
    execute w s = exec i s :=
  execute_of_decode_eq_ok (encode_eq_of_numbers ho hb ▸ decode_encode hwf) s

/-- A word with a bit set above the operand field of its opcode is illegal (R88). -/
theorem execute_of_reservedBits {w : Word} {n : Nat} {s : State} (hi : s.Inv)
    (ho : opcodeNumber w = n) (hb : belowOpcode w / 2 ^ operandBits n ≠ 0) :
    execute w s = failedWith .illegal s :=
  execute_of_reservedWord hi ((reservedWord_iff w).2 (.inr (.inl (ho ▸ hb))))

/-- An opcode without operands has one legal word: any bit below the opcode makes it illegal. -/
theorem execute_of_belowOpcode_ne_zero {n : Nat} (hn : operandBits n = 0) {s : State} (hi : s.Inv)
    (w : Word) (ho : opcodeNumber w = n) (hb : belowOpcode w ≠ 0) :
    execute w s = failedWith .illegal s :=
  execute_of_reservedBits hi ho (by rwa [hn, pow_zero, Nat.div_one])

/-- The low bits of a word as a field of at most 28 bits are those below the opcode. -/
theorem toNat_ofNat_toNat (w : Word) {n : Nat} (hn : n ≤ 28) :
    (BitVec.ofNat n w.toNat).toNat = belowOpcode w % 2 ^ n := by
  rw [BitVec.toNat_ofNat, belowOpcode, Nat.mod_mod_of_dvd _ (Nat.pow_dvd_pow 2 hn)]

/-- With no reserved bit set, the bits below the opcode are a field at bit 0. -/
theorem belowOpcode_eq_toNat_ofNat (w : Word) {n : Nat} (hn : n ≤ 28)
    (hb : belowOpcode w / 2 ^ n = 0) : belowOpcode w = (BitVec.ofNat n w.toNat).toNat := by
  rw [toNat_ofNat_toNat w hn,
    Nat.mod_eq_of_lt ((Nat.div_eq_zero_iff_lt (Nat.two_pow_pos n)).1 hb)]

/-! ### NOP and CLRERR -/

/-- Settles O21: NOP's effect is the state as it was. -/
theorem nopChangesNothing : Obligations.NopChangesNothing := by
  intro s hs
  have hi := (inv_iff s).2 hs
  have hx : exec .nop s = answered 0#32 s := exec_eq_answered hi rfl rfl
  exact ⟨hx, (execute_of_decode_eq_ok (by decide) s).trans hx, execute_of_belowOpcode_ne_zero rfl hi⟩

/-- Settles O33: CLRERR's effect is the one write to ERRF. -/
theorem clrErrClearsTheStickyError : Obligations.ClrErrClearsTheStickyError := by
  intro s hs
  have hi := (inv_iff s).2 hs
  have hx : exec .clrErr s = answered 0#32 { s with errf := .ok } := exec_eq_answered hi rfl rfl
  refine ⟨hx, fun he => ?_, execute_of_decode_eq_ok (by decide) s,
    execute_of_belowOpcode_ne_zero rfl hi⟩
  rw [hx, ← he]

/-! ### The configuration commands -/

/-- CFG_RC's check is R173's condition. -/
theorem configAccepted_iff (rate cap : BitVec 11) :
    configAccepted rate cap = true ↔ LegalConfig rate cap := by
  simp [configAccepted, and_assoc]

/-- A legal configuration is no error of CFG_RC's operands. -/
theorem operandError_cfgRc_of_legal {rate cap : BitVec 11} (h : LegalConfig rate cap) :
    operandError (.cfgRc rate cap) = none :=
  if_pos ((configAccepted_iff rate cap).2 h)

theorem operandError_cfgRc_of_not_legal {rate cap : BitVec 11} (h : ¬LegalConfig rate cap) :
    operandError (.cfgRc rate cap) = some .cfg :=
  if_neg (mt (configAccepted_iff rate cap).1 h)

/-- In IDLE, CFG_RC writes a legal configuration. -/
theorem exec_cfgRc_of_legal {s : State} (hi : s.Inv) (hp : s.phase = .idle) {rate cap : BitVec 11}
    (h : LegalConfig rate cap) :
    exec (.cfgRc rate cap) s = answered 0#32 { s with rate := rate, cap := cap } :=
  exec_eq_answered hi (by simp [legalIn, hp]) (operandError_cfgRc_of_legal h)

/-- Settles O22: the check of CFG_RC is `LegalConfig`, and its operands are the two fields of the
word. -/
theorem cfgRcSetsALegalConfiguration : Obligations.CfgRcSetsALegalConfiguration := by
  intro s hs
  have hi := (inv_iff s).2 hs
  refine ⟨fun rate cap hp h => exec_cfgRc_of_legal hi hp h, fun rate cap hp h => ?_,
    fun rate cap hp => ?_, fun w ho => ⟨execute_of_reservedBits hi ho, fun hb => ?_⟩⟩
  · exact exec_eq_failedWith_of_operandError hi (by simp [legalIn, hp])
      (operandError_cfgRc_of_not_legal h)
  · exact exec_eq_failedWith_seq hi (by simp [legalIn, hp])
  · refine execute_of_numbers rfl ho ?_ s
    simp only [operandValue, BitVec.toNat_ofNat, belowOpcode] at hb ⊢
    omega

/-- Settles O23: CFG_SFX has no check of its own, and its operand is the low byte of the word. -/
theorem cfgSfxSetsTheSuffix : Obligations.CfgSfxSetsTheSuffix := by
  intro s hs
  have hi := (inv_iff s).2 hs
  refine ⟨fun v hp => exec_eq_answered hi (by simp [legalIn, hp]) rfl,
    fun v hp => exec_eq_failedWith_seq hi (by simp [legalIn, hp]),
    fun w ho => ⟨execute_of_reservedBits hi ho, fun hb => ?_⟩⟩
  exact execute_of_numbers rfl ho (belowOpcode_eq_toNat_ofNat w (by decide) hb) s

/-- Settles O24: the profile is legal, so CFG_RC leaves it in a state that still is in IDLE, where
CFG_SFX writes the suffix. -/
theorem cfgK256LoadsTheProfile : Obligations.CfgK256LoadsTheProfile := by
  intro s hs
  have hi := (inv_iff s).2 hs
  have hx (hp : s.phase = .idle) : exec .cfgK256 s =
      answered 0#32 { s with rate := 1088#11, cap := 512#11, sfx := 0x01#8 } :=
    exec_eq_answered hi (by simp [legalIn, hp]) rfl
  refine ⟨hx, fun hp => ⟨_, exec_cfgRc_of_legal hi hp (by decide), ?_⟩,
    fun hp => exec_eq_failedWith_seq hi (by simp [legalIn, hp]),
    execute_of_decode_eq_ok (by decide) s, execute_of_belowOpcode_ne_zero rfl hi⟩
  rw [hx hp]
  exact exec_eq_answered (inv_withConfig hi hp (rate := 1088#11) (cap := 512#11) (by decide))
    (by simp [legalIn, hp]) rfl

/-! ### START and END -/

theorem exec_start {s : State} (hi : s.Inv) : exec .start s = answered 0#32
    { s with S := Vector.replicate 200 0x00#8, b := 0#8, q := 0#8, phase := .absorb } :=
  exec_eq_answered hi rfl rfl

/-- Settles O25: START is legal in every phase, and its effect names the four fields. -/
theorem startBeginsAHash : Obligations.StartBeginsAHash := by
  intro s hs
  have hi := (inv_iff s).2 hs
  exact ⟨exec_start hi, execute_of_decode_eq_ok (by decide) s, execute_of_belowOpcode_ne_zero rfl hi⟩

/-- Settles O26: what START leaves is made of constants and the configuration and ERRF of the state
before. -/
theorem startForgetsThePast : Obligations.StartForgetsThePast := by
  intro s s' hs hs' hrate hcap hsfx herrf
  exact ⟨_, _, exec_start ((inv_iff s).2 hs), exec_start ((inv_iff s').2 hs'),
    rfl, rfl, rfl, rfl, hrate, hcap, hsfx, herrf, rfl⟩

/-- In IDLE the state that END leaves is the one it found: R37 has S and both cursors zero there. -/
theorem effect_endHash_of_idle {s : State} (hi : s.Inv) (hp : s.phase = .idle) :
    effect .endHash s = s := by
  obtain ⟨-, ⟨hb, hq⟩, hS⟩ := (inv_idle_iff hp).1 hi
  have hz : s.S = zeroBytes := by
    apply stateBytes_ext
    intro k hk
    rw [byteAt_zeroBytes, byteAt_eq_getElem _ hk, hS k hk]
  have hb0 : s.b = 0#8 := BitVec.eq_of_toNat_eq hb
  have hq0 : s.q = 0#8 := BitVec.eq_of_toNat_eq hq
  cases s
  simp_all only [effect, State.zeroS]

/-- Settles O31: END is legal in every phase, and in IDLE its effect is the state as it was. -/
theorem endDiscardsTheComputation : Obligations.EndDiscardsTheComputation := by
  intro s hs
  have hi := (inv_iff s).2 hs
  have hx : exec .endHash s = answered 0#32 (effect .endHash s) := exec_eq_answered hi rfl rfl
  refine ⟨hx, fun hp => ?_, execute_of_decode_eq_ok (by decide) s,
    execute_of_belowOpcode_ne_zero rfl hi⟩
  rw [hx, effect_endHash_of_idle hi hp]

/-! ### STATUS -/

/-- The word of SEL = 0 is its four fields side by side (R93). -/
theorem toNat_statusPhase (s : State) : s.statusPhase.toNat =
    s.q.toNat * 2 ^ 16 + s.b.toNat * 2 ^ 8 + s.errf.code.toNat * 2 ^ 4 + s.phase.code.toNat := by
  have hp : (placed s.phase.code 0).toNat = s.phase.code.toNat := toNat_placed_zero _ (by decide)
  have he := toNat_placed_or s.errf.code (lo := 4) (b := placed s.phase.code 0) (by decide) (by omega)
  have hb := toNat_placed_or s.b (lo := 8) (b := placed s.errf.code 4 ||| placed s.phase.code 0)
    (by decide) (by omega)
  have hq := toNat_placed_or s.q (lo := 16)
    (b := placed s.b 8 ||| (placed s.errf.code 4 ||| placed s.phase.code 0)) (by decide) (by omega)
  have hw : s.statusPhase =
      placed s.q 16 ||| (placed s.b 8 ||| (placed s.errf.code 4 ||| placed s.phase.code 0)) := by
    simp only [State.statusPhase, placed, BitVec.or_assoc, BitVec.shiftLeft_zero]
  simp only [hw, hq, hb, he, hp, Nat.add_assoc]

/-- The word of SEL = 1 is CAP and RATE side by side (R94). -/
theorem toNat_statusConfig (s : State) :
    s.statusConfig.toNat = s.cap.toNat * 2 ^ 16 + s.rate.toNat := by
  have hr : (placed s.rate 0).toNat = s.rate.toNat := toNat_placed_zero _ (by decide)
  have hc := toNat_placed_or s.cap (lo := 16) (b := placed s.rate 0) (by decide) (by omega)
  have hw : s.statusConfig = placed s.cap 16 ||| placed s.rate 0 := by
    simp only [State.statusConfig, placed, BitVec.shiftLeft_zero]
  rw [hw, hc, hr]

/-- The word of SEL = 2 is SFX (R95). -/
theorem toNat_statusSuffix (s : State) : s.statusSuffix.toNat = s.sfx.toNat :=
  BitVec.toNat_setWidth_of_le (by decide)

/-- Settles O32: each selector answers one of the three words, whose fields do not overlap. -/
theorem statusReadsTheRegisters : Obligations.StatusReadsTheRegisters := by
  intro s hs
  have hi := (inv_iff s).2 hs
  refine ⟨⟨_, exec_eq_answered hi rfl rfl, ?_⟩,
    ⟨_, exec_eq_answered hi rfl rfl, toNat_statusConfig s⟩,
    ⟨_, exec_eq_answered hi rfl rfl, toNat_statusSuffix s⟩,
    exec_eq_failedWith_of_operandError hi rfl rfl, fun w ho => ⟨fun hw => ?_, fun hb hsel => ?_⟩⟩
  · refine (toNat_statusPhase s).trans ?_
    cases s.errf <;> cases s.phase <;> rfl
  · refine execute_of_reservedWord hi ((reservedWord_iff w).2 (.inr ?_))
    rw [ho]
    exact hw.imp_right (.intro rfl)
  · refine execute_of_numbers (wellFormed_status_iff.2 fun h => hsel ?_) ho
      (belowOpcode_eq_toNat_ofNat w (by decide) hb) s
    rw [← toNat_ofNat_toNat w (by decide), h]
    rfl

/-! ### ABSORB, FINAL and SQUEEZE -/

section Absorb
variable {s : State} (d : Byte)

/-- ABSORB that leaves the block unfilled writes S and B and does not permute (R177). -/
theorem State.absorbed_of_ne (h : (s.b + 1#8).toNat ≠ s.blockBytes) :
    s.absorbed d = { s with S := xorByte s.S s.b.toNat d, b := s.b + 1#8 } := by
  have hf : ({ s.xorS s.absorbOffset d with b := s.b + 1#8 } : State).blockFull = false :=
    beq_eq_false_iff_ne.2 h
  simp only [State.absorbed, hf]
  rfl

/-- ABSORB that fills the block permutes and starts the next block (R177). -/
theorem State.absorbed_of_eq (h : (s.b + 1#8).toNat = s.blockBytes) :
    s.absorbed d = { s with
      S := keccakF (xorByte s.S s.b.toNat d)
      b := 0#8
      scratch := Config.freeScratch s.permCount
      permCount := s.permCount + 1 } := by
  have hf : ({ s.xorS s.absorbOffset d with b := s.b + 1#8 } : State).blockFull = true :=
    beq_iff_eq.2 h
  simp only [State.absorbed, hf]
  rfl

/-- In ABSORB the cursor goes on by one without wrapping. -/
theorem toNat_b_add_one (hi : s.Inv) (hp : s.phase = .absorb) :
    (s.b + 1#8).toNat = s.b.toNat + 1 :=
  toNat_add_one_of_lt_blockBytes hi.configLegal ((inv_absorb_iff hp).1 hi).2.1

end Absorb

/-- Settles O27: the two cases of `State.absorbed`; the operand is the low byte of the word. -/
theorem absorbXorsOneByte : Obligations.AbsorbXorsOneByte := by
  intro s d hs
  have hi := (inv_iff s).2 hs
  have hx (hp : s.phase = .absorb) : exec (.absorb d) s = answered 0#32 (s.absorbed d) :=
    exec_eq_answered hi (by simp [legalIn, hp]) rfl
  refine ⟨fun hp hlt => ?_, fun hp heq => ⟨Config.freeScratch s.permCount, ?_⟩,
    fun hp => exec_eq_failedWith_seq hi (by simp [legalIn, hp]),
    fun w ho => ⟨execute_of_reservedBits hi ho, fun hb => ?_⟩⟩
  · rw [hx hp, State.absorbed_of_ne d (toNat_b_add_one hi hp ▸ hlt.ne)]
    rfl
  · rw [hx hp, State.absorbed_of_eq d (toNat_b_add_one hi hp ▸ heq)]
    rfl
  · exact execute_of_numbers rfl ho (belowOpcode_eq_toNat_ofNat w (by decide) hb) s

/-- Bit 7 of a byte is its upper half. -/
theorem getLsbD_seven_iff (v : Byte) : v.getLsbD 7 = true ↔ 0x80 ≤ v.toNat := by
  rw [← BitVec.msb_eq_getLsbD_last (x := v), BitVec.msb_eq_decide]
  simp

/-- FINAL's special case, with the block's last byte as R178 writes it and as R183 counts it. -/
theorem padSpecialCase_iff {s : State} (h : s.configLegal = true) :
    s.padSpecialCase = true ↔ s.sfx.getLsbD 7 = true ∧ s.b.toNat + 1 = s.blockBytes := by
  have := (blockBytes_bounds h).1
  simp only [State.padSpecialCase, State.lastRateOffset, Bool.and_eq_true, beq_iff_eq]
  exact and_congr_right fun _ => by omega

/-- FINAL pads S as SpongeRef does (R178, R184), with a permutation more in the special case. -/
theorem effect_final (s : State) : effect .final s = { s with
    S := refPad s.blockBytes s.sfx (s.S, s.b.toNat)
    b := 0#8
    q := 0#8
    phase := .squeeze
    scratch := Config.freeScratch s.suffixed.permCount
    permCount := s.permCount + if s.padSpecialCase then 2 else 1 } := by
  have hc : (s.sfx.getLsbD 7 && s.b.toNat == s.blockBytes - 1) = s.padSpecialCase := rfl
  have hx : (s.xorS s.absorbOffset s.sfx).padSpecialCase = s.padSpecialCase := rfl
  simp only [effect, refPad, State.suffixed, hc, hx]
  split <;> rfl

/-- Settles O29: FINAL's padding is `refPad`, with the special case in numbers. -/
theorem finalPadsAndPermutes : Obligations.FinalPadsAndPermutes := by
  intro s hs
  have hi := (inv_iff s).2 hs
  refine ⟨fun hp => ⟨Config.freeScratch s.suffixed.permCount, ?_⟩,
    fun hp => exec_eq_failedWith_seq hi (by simp [legalIn, hp]),
    execute_of_decode_eq_ok (by decide) s, execute_of_belowOpcode_ne_zero rfl hi⟩
  have hsp : (0x80 ≤ s.sfx.toNat ∧ s.b.toNat + 1 = s.rate.toNat / 8) ↔ s.padSpecialCase = true := by
    rw [padSpecialCase_iff hi.configLegal, getLsbD_seven_iff, State.blockBytes]
  rw [exec_eq_answered hi (by simp [legalIn, hp]) rfl, effect_final]
  simp only [hsp]
  rfl

section Squeeze
variable {s : State}

/-- SQUEEZE inside the block reads S as it stands (R179). -/
theorem State.refilled_of_ne (h : s.q.toNat ≠ s.blockBytes) : s.refilled = s := by
  have hf : s.blockReadOut = false := beq_eq_false_iff_ne.2 h
  simp [State.refilled, hf]

/-- SQUEEZE at the end of the block permutes and starts the next block (R179). -/
theorem State.refilled_of_eq (h : s.q.toNat = s.blockBytes) :
    s.refilled = { s.permute with q := 0#8 } := by
  have hf : s.blockReadOut = true := beq_iff_eq.2 h
  simp [State.refilled, hf]

end Squeeze

/-- Settles O30: the two cases of `State.refilled`. -/
theorem squeezeReturnsOneByte : Obligations.SqueezeReturnsOneByte := by
  intro s hs
  have hi := (inv_iff s).2 hs
  have hx (hp : s.phase = .squeeze) : exec .squeeze s =
      answered (BitVec.ofNat 32 (byteAt s.refilled.S s.refilled.q.toNat).toNat)
        { s.refilled with q := s.refilled.q + 1#8 } := by
    rw [BitVec.ofNat_toNat]
    exact exec_eq_answered hi (by simp [legalIn, hp]) rfl
  refine ⟨fun hp hlt => ?_, fun hp heq => ⟨Config.freeScratch s.permCount, ?_⟩,
    fun hp => exec_eq_failedWith_seq hi (by simp [legalIn, hp]),
    execute_of_decode_eq_ok (by decide) s, execute_of_belowOpcode_ne_zero rfl hi⟩
  · rw [hx hp, State.refilled_of_ne hlt.ne]
  · rw [hx hp, State.refilled_of_eq heq]
    rfl

/-! ### Permutations -/

/-- A command that completes runs the permutations of R183. -/
theorem effect_permCount {i : Instr} {s : State} (hi : s.Inv) (hl : legalIn i s.phase = true) :
    (effect i s).permCount = s.permCount + permutationsOf i s := by
  cases i with
  | absorb d =>
    have hb := toNat_b_add_one hi (eq_of_beq hl)
    simp only [effect, permutationsOf]
    split
    next h => rw [State.absorbed_of_eq d (hb.trans h)]
    next h => rw [State.absorbed_of_ne d (hb ▸ h), Nat.add_zero]
  | final =>
    simp only [effect_final, padSpecialCase_iff hi.configLegal, permutationsOf]
  | squeeze =>
    simp only [effect, permutationsOf]
    split
    next h => rw [State.refilled_of_eq h]; rfl
    next h => rw [State.refilled_of_ne h, Nat.add_zero]
  | _ => rfl

/-- A command that its operands make fail is one that never permutes. -/
theorem permutationsOf_of_operandError {i : Instr} {c : ErrCode} (h : operandError i = some c)
    (s : State) : permutationsOf i s = 0 := by
  cases i with
  | cfgRc rate cap => rfl
  | status sel => rfl
  | _ => cases h

/-- Settles O35: a command that completes counts in its effect, and one whose operands fail has nothing
to count. -/
theorem permutationsPerCommand : Obligations.PermutationsPerCommand := by
  intro i s hs hl
  have hi := (inv_iff s).2 hs
  cases ho : operandError i with
  | none => exact ⟨_, exec_eq_answered hi hl ho, effect_permCount hi hl⟩
  | some c =>
    refine ⟨_, exec_eq_failedWith_of_operandError hi hl ho, ?_⟩
    rw [permutationsOf_of_operandError ho, Nat.add_zero]

end Sys2Proof.Machine

/-! PROOFS. The statements of spec/42_sponge_commands.md about whole hashes: SpongeRef byte by byte, what
each command of a hash transaction does to the pair of S and its cursor, and the transactions. -/

namespace Sys2Proof.Machine

/-! ### SpongeRef byte by byte

`absorbByte` and `squeezeBytes` are what ABSORB and the SQUEEZEs do to the state array and its cursor
(`absorbed_pair`, `refilled_pair`); `refAbsorb_eq_foldl` and `refSqueeze_eq_squeezeBytes` tie them to the
blockwise loops of R184. -/

/-- One message byte into the pair of S and the absorb cursor, for blocks of `R` bytes (R177). -/
def absorbByte (R : Nat) (p : StateBytes × Nat) (d : Byte) : StateBytes × Nat :=
  if p.2 + 1 = R then (keccakF (xorByte p.1 p.2 d), 0) else (xorByte p.1 p.2 d, p.2 + 1)

/-- The pair of S and the squeeze cursor that the next output byte is read from (R179). -/
def refillBlock (R : Nat) (p : StateBytes × Nat) : StateBytes × Nat :=
  if p.2 = R then (keccakF p.1, 0) else p

/-- The next output bytes, one by one (R179). -/
def squeezeBytes (R : Nat) : Nat → StateBytes × Nat → List Byte
  | 0, _ => []
  | n + 1, p =>
    byteAt (refillBlock R p).1 (refillBlock R p).2 ::
      squeezeBytes R n ((refillBlock R p).1, (refillBlock R p).2 + 1)

section Absorb
variable {R : Nat}

theorem absorbByte_snd {p : StateBytes × Nat} (h : p.2 < R) (d : Byte) :
    (absorbByte R p d).2 = (p.2 + 1) % R := by
  unfold absorbByte
  split
  next hR => rw [hR, Nat.mod_self]
  next hR => exact (Nat.mod_eq_of_lt (by omega)).symm

theorem absorbByte_snd_lt {p : StateBytes × Nat} (h : p.2 < R) (d : Byte) :
    (absorbByte R p d).2 < R := by
  rw [absorbByte_snd h]
  exact Nat.mod_lt _ (by omega)

/-- The cursor of `absorbByte` counts the bytes modulo the block length. -/
theorem foldl_absorbByte_snd {p : StateBytes × Nat} (h : p.2 < R) (M : List Byte) :
    (M.foldl (absorbByte R) p).2 = (p.2 + M.length) % R := by
  induction M generalizing p with
  | nil => exact (Nat.mod_eq_of_lt h).symm
  | cons d M ih =>
    rw [List.foldl_cons, ih (absorbByte_snd_lt h d), absorbByte_snd h, Nat.mod_add_mod,
      List.length_cons, Nat.add_assoc, Nat.add_comm 1]

/-- The bytes of one block are XORed in together, with a permutation where they fill it. -/
theorem foldl_absorbByte_of_le {S : StateBytes} {b : Nat} (hb : b < R) {M : List Byte}
    (h : b + M.length ≤ R) : M.foldl (absorbByte R) (S, b) =
      if b + M.length = R then (keccakF (xorBytesAt b M S), 0)
      else (xorBytesAt b M S, b + M.length) := by
  induction M generalizing S b with
  | nil => exact (if_neg hb.ne).symm
  | cons d M ih =>
    rw [List.length_cons] at h ⊢
    rw [List.foldl_cons, xorBytesAt, absorbByte]
    by_cases hR : b + 1 = R
    · have hM : M = [] := List.length_eq_zero_iff.1 (by omega)
      simp [hR, hM, xorBytesAt]
    · rw [if_neg hR, ih (by omega) (by omega), Nat.add_right_comm, Nat.add_assoc]

theorem refAbsorb_nil (fuel : Nat) (p : StateBytes × Nat) : refAbsorb R fuel [] p = p := by
  cases fuel <;> rfl

/-- The absorption loop of R184 takes its message in byte by byte. -/
theorem refAbsorb_eq_foldl (hR : 0 < R) {fuel : Nat} {M : List Byte} (hM : M.length ≤ fuel)
    (S : StateBytes) : refAbsorb R fuel M (S, 0) = M.foldl (absorbByte R) (S, 0) := by
  induction fuel generalizing M S with
  | zero =>
    rw [List.length_eq_zero_iff.1 (Nat.le_zero.1 hM)]
    rfl
  | succ fuel ih =>
    rw [refAbsorb]
    split
    next h0 => rw [List.isEmpty_iff.1 h0]; rfl
    next h0 =>
      have hpos := List.length_pos_iff.2 (mt List.isEmpty_iff.2 h0)
      have hlen : (M.take (min M.length R)).length = min M.length R := by simp
      have hblock := foldl_absorbByte_of_le (S := S) hR (M := M.take (min M.length R)) (by omega)
      rw [hlen, Nat.zero_add] at hblock
      conv_rhs => rw [← List.take_append_drop (min M.length R) M, List.foldl_append, hblock]
      by_cases h : min M.length R = R
      · simp only [if_pos h]
        exact ih (by rw [List.length_drop]; omega) _
      · have hdrop : M.drop (min M.length R) = [] := by rw [List.drop_eq_nil_iff]; omega
        simp only [if_neg h, hdrop]
        exact refAbsorb_nil fuel _

end Absorb

section Squeeze
variable {R : Nat}

theorem refillBlock_snd_lt (hR : 0 < R) {p : StateBytes × Nat} (hp : p.2 ≤ R) :
    (refillBlock R p).2 < R := by
  unfold refillBlock
  split
  · exact hR
  · omega

theorem length_squeezeBytes (n : Nat) (p : StateBytes × Nat) : (squeezeBytes R n p).length = n := by
  induction n generalizing p with
  | zero => rfl
  | succ n ih => rw [squeezeBytes, List.length_cons, ih]

/-- Output bytes inside one block are bytes of S as it stands. -/
theorem squeezeBytes_add (hR : R ≤ 200) (S : StateBytes) {q n : Nat} (h : q + n ≤ R) (m : Nat) :
    squeezeBytes R (n + m) (S, q) = (S.toList.drop q).take n ++ squeezeBytes R m (S, q + n) := by
  induction n generalizing q with
  | zero => simp
  | succ n ih =>
    have hq : q < S.toList.length := by simp; omega
    have hrefill : refillBlock R (S, q) = (S, q) := if_neg (by dsimp only; omega)
    rw [Nat.add_right_comm, squeezeBytes, hrefill, ih (by omega), List.drop_eq_getElem_cons hq,
      List.take_succ_cons, List.cons_append, Nat.add_right_comm q, Nat.add_assoc q,
      byteAt_eq_getElem S (by omega), Vector.getElem_toList]

/-- A block read out is the next block not yet begun. -/
theorem squeezeBytes_full (hR : 0 < R) (S : StateBytes) (n : Nat) :
    squeezeBytes R n (S, R) = squeezeBytes R n (keccakF S, 0) := by
  cases n with
  | zero => rfl
  | succ n =>
    have hfull : refillBlock R (S, R) = (keccakF S, 0) := if_pos rfl
    have hstart : refillBlock R (keccakF S, 0) = (keccakF S, 0) := if_neg hR.ne
    rw [squeezeBytes, squeezeBytes, hfull, hstart]

/-- The squeezing loop of R184 gives its output out byte by byte. -/
theorem refSqueeze_eq_squeezeBytes (hR : 0 < R) (hR' : R ≤ 200) {fuel n : Nat} (hn : n ≤ fuel)
    (S : StateBytes) : refSqueeze R fuel n S = squeezeBytes R n (S, 0) := by
  induction fuel generalizing n S with
  | zero =>
    rw [Nat.le_zero.1 hn]
    rfl
  | succ fuel ih =>
    rw [refSqueeze]
    split
    next h0 => rw [h0]; rfl
    next h0 =>
      have hblock := squeezeBytes_add hR' S (q := 0) (n := min n R) (by omega) (n - min n R)
      rw [Nat.add_sub_cancel' (Nat.min_le_left n R), Nat.zero_add, List.drop_zero] at hblock
      rw [hblock]
      dsimp only
      congr 1
      by_cases hrem : 0 < n - min n R
      · rw [if_pos hrem, ih (by omega), show min n R = R by omega, squeezeBytes_full hR]
      · rw [if_neg hrem, ih (by omega), Nat.eq_zero_of_not_pos hrem]
        rfl

end Squeeze

/-- SpongeRef byte by byte. -/
theorem spongeRef_eq {r : Nat} (hR : 0 < r / 8) (hR' : r / 8 ≤ 200) (c : Nat) (M : List Byte)
    (sfx : Byte) (L : Nat) : spongeRef r c M sfx L = squeezeBytes (r / 8) L
      (refPad (r / 8) sfx (M.foldl (absorbByte (r / 8)) (zeroBytes, 0)), 0) := by
  rw [spongeRef, refSqueeze_eq_squeezeBytes hR hR' le_rfl, refAbsorb_eq_foldl hR le_rfl]

/-! ### Commands issued one after another -/

/-- The state between two commands once `i` has completed and its response is taken. -/
def afterTaken (i : Instr) (s : State) : State := { effect i s with host := [], response := none }

/-- From every state between commands that meets `P`, the commands `is` all answer OK, with the DATA
`ds`, and leave a state between commands that meets `Q`. -/
def Answers (P : State → Prop) (is : List Instr) (ds : List Word) (Q : State → Prop) : Prop :=
  ∀ s, Ready s → P s →
    ∃ t, transactAll (is.map encode) s = some (ds.map (Response.mk .ok), t) ∧ Ready t ∧ Q t

theorem transactAll_append {ws ws' : List Word} {s t u : State} {rs rs' : List Response}
    (h : transactAll ws s = some (rs, t)) (h' : transactAll ws' t = some (rs', u)) :
    transactAll (ws ++ ws') s = some (rs ++ rs', u) := by
  induction ws generalizing s rs with
  | nil => cases h; exact h'
  | cons w ws ih =>
    simp only [transactAll] at h
    split at h
    · cases h
    next hw =>
    split at h
    · cases h
    next hws =>
    cases h
    simp only [List.cons_append, transactAll, hw, ih hws]

/-- A command whose operands are acceptable is well-formed: the selector 3 is not. -/
theorem wellFormed_of_operandError {i : Instr} (h : operandError i = none) : WellFormed i := by
  cases i with
  | status sel => exact wellFormed_status_iff.2 fun hsel => by simp [operandError, hsel] at h
  | _ => rfl

section Answers
variable {P Q T : State → Prop}

theorem Answers.nil : Answers P [] [] P := fun s hs hp => ⟨s, rfl, hs, hp⟩

theorem Answers.append {is js : List Instr} {ds es : List Word} (h : Answers P is ds Q)
    (h' : Answers Q js es T) : Answers P (is ++ js) (ds ++ es) T := by
  intro s hs hp
  obtain ⟨t, ht, htr, hq⟩ := h s hs hp
  obtain ⟨u, hu, hur, hT⟩ := h' t htr hq
  exact ⟨u, by rw [List.map_append, List.map_append]; exact transactAll_append ht hu, hur, hT⟩

/-- One command that is legal in every state of `P`. -/
theorem Answers.single {i : Instr} {d : Word} (ho : operandError i = none)
    (h : ∀ s, s.Inv → P s →
      legalIn i s.phase = true ∧ answerData i s = d ∧ Q (afterTaken i s)) :
    Answers P [i] [d] Q := by
  intro s ⟨hs, hr⟩ hp
  have hi := (inv_iff s).2 hs
  obtain ⟨hl, hd, hq⟩ := h s hi hp
  have hw := decode_encode (wellFormed_of_operandError ho)
  have ht : (afterTaken i s).Inv := inv_effect hi hl ho
  refine ⟨afterTaken i s, ?_, ⟨(inv_iff _).1 ht, rfl⟩, hq⟩
  simp only [List.map_cons, List.map_nil, transactAll, transact_of_legal hi hr hw hl ho, hd]
  rfl

end Answers

/-! ### The commands of a hash -/

/-- In IDLE, with `n` permutations run. -/
structure Idle (n : Nat) (s : State) : Prop where
  phase : s.phase = .idle
  permCount : s.permCount = n

/-- Blocks of `R` bytes and the suffix `sfx`, with `n` permutations run. -/
structure Configured (R : Nat) (sfx : Byte) (n : Nat) (s : State) : Prop where
  blockBytes : s.blockBytes = R
  sfx : s.sfx = sfx
  permCount : s.permCount = n

/-- In ABSORB with `p` the pair of S and the cursor B. -/
structure Absorbing (R : Nat) (sfx : Byte) (p : StateBytes × Nat) (n : Nat) (s : State) : Prop
    extends Configured R sfx n s where
  phase : s.phase = .absorb
  pair : (s.S, s.b.toNat) = p

/-- In SQUEEZE with `p` the pair of S and the cursor Q. -/
structure Squeezing (R : Nat) (p : StateBytes × Nat) (n : Nat) (s : State) : Prop where
  blockBytes : s.blockBytes = R
  permCount : s.permCount = n
  phase : s.phase = .squeeze
  pair : (s.S, s.q.toNat) = p

section Commands
variable {R n : Nat} {sfx : Byte} {p : StateBytes × Nat}

theorem answers_endHash : Answers (fun s => s.permCount = n) [.endHash] [0#32] (Idle n) :=
  Answers.single rfl fun _ _ hn => ⟨rfl, rfl, rfl, hn⟩

theorem answers_cfgRc {rate cap : BitVec 11} (h : LegalConfig rate cap) :
    Answers (Idle n) [.cfgRc rate cap] [0#32]
      fun s => Idle n s ∧ s.blockBytes = rate.toNat / 8 :=
  Answers.single (operandError_cfgRc_of_legal h) fun _ _ hs =>
    ⟨by simp [legalIn, hs.phase], rfl, ⟨hs.phase, hs.permCount⟩, rfl⟩

theorem answers_cfgSfx : Answers (fun s => Idle n s ∧ s.blockBytes = R) [.cfgSfx sfx] [0#32]
    (Configured R sfx n) :=
  Answers.single rfl fun _ _ ⟨hs, hR⟩ =>
    ⟨by simp [legalIn, hs.phase], rfl, hR, rfl, hs.permCount⟩

theorem answers_cfgK256 : Answers (Idle n) [.cfgK256] [0#32] (Configured (1088 / 8) 0x01#8 n) :=
  Answers.single rfl fun _ _ hs => ⟨by simp [legalIn, hs.phase], rfl, rfl, rfl, hs.permCount⟩

theorem answers_start :
    Answers (Configured R sfx n) [.start] [0#32] (Absorbing R sfx (zeroBytes, 0) n) :=
  Answers.single rfl fun _ _ hs => ⟨rfl, rfl, ⟨hs.blockBytes, hs.sfx, hs.permCount⟩, rfl, rfl⟩

/-- ABSORB is `absorbByte` on S and B. -/
theorem absorbed_pair {s : State} (hi : s.Inv) (hp : s.phase = .absorb) (d : Byte) :
    ((s.absorbed d).S, (s.absorbed d).b.toNat) = absorbByte s.blockBytes (s.S, s.b.toNat) d := by
  have hb := toNat_b_add_one hi hp
  rw [absorbByte]
  split
  next h => rw [State.absorbed_of_eq d (hb.trans h)]; rfl
  next h => rw [State.absorbed_of_ne d (hb ▸ h), ← hb]

theorem answers_absorb (d : Byte) : Answers (Absorbing R sfx p n) [.absorb d] [0#32]
    (Absorbing R sfx (absorbByte R p d) (n + if p.2 + 1 = R then 1 else 0)) := by
  refine Answers.single rfl fun s hi hs => ?_
  have hl : legalIn (.absorb d) s.phase = true := by simp [legalIn, hs.phase]
  obtain ⟨⟨rfl, rfl, rfl⟩, hp, rfl⟩ := hs
  exact ⟨hl, rfl, ⟨blockBytes_congr (s.absorbed_rate d), s.absorbed_sfx d, effect_permCount hi hl⟩,
    (s.absorbed_phase d).trans hp, absorbed_pair hi hp d⟩

/-- The ABSORBs of a message take it in byte by byte, and permute once for each block they fill. -/
theorem answers_absorbs (hp : p.2 < R) (M : List Byte) :
    Answers (Absorbing R sfx p n) (absorbs M) (List.replicate M.length 0#32)
      (Absorbing R sfx (M.foldl (absorbByte R) p) (n + (p.2 + M.length) / R)) := by
  induction M generalizing p n with
  | nil =>
    rw [List.length_nil, Nat.add_zero, Nat.div_eq_of_lt hp]
    exact Answers.nil
  | cons d M ih =>
    have hn : n + (p.2 + (M.length + 1)) / R = (n + if p.2 + 1 = R then 1 else 0) +
        ((absorbByte R p d).2 + M.length) / R := by
      rw [absorbByte, Nat.add_comm M.length, ← Nat.add_assoc]
      split
      next h =>
        rw [h, Nat.add_div_left _ (by omega), Nat.zero_add]
        omega
      next => rfl
    rw [List.length_cons, hn]
    exact (answers_absorb d).append (ih (absorbByte_snd_lt hp d))

/-- FINAL pads as SpongeRef does and permutes once, or twice in the special case. -/
theorem answers_final : Answers (Absorbing R sfx p n) [.final] [0#32]
    (Squeezing R (refPad R sfx p, 0)
      (n + 1 + if 0x80 ≤ sfx.toNat ∧ p.2 = R - 1 then 1 else 0)) := by
  refine Answers.single rfl fun s hi hs => ?_
  obtain ⟨⟨rfl, rfl, rfl⟩, hp, rfl⟩ := hs
  have hsp : s.padSpecialCase = true ↔ 0x80 ≤ s.sfx.toNat ∧ s.b.toNat = s.blockBytes - 1 := by
    rw [← getLsbD_seven_iff, State.padSpecialCase, Bool.and_eq_true, beq_iff_eq]
    rfl
  rw [afterTaken, effect_final]
  refine ⟨by simp [legalIn, hp], rfl, rfl, ?_, rfl, rfl⟩
  simp only [hsp]
  split <;> rfl

/-- SQUEEZE's permutation is `refillBlock` on S and Q. -/
theorem refilled_pair (s : State) :
    (s.refilled.S, s.refilled.q.toNat) = refillBlock s.blockBytes (s.S, s.q.toNat) := by
  rw [refillBlock]
  split
  next h => rw [State.refilled_of_eq h]; rfl
  next h => rw [State.refilled_of_ne h]

/-- SQUEEZE reads its byte inside the block, and its cursor goes on without wrapping. -/
theorem toNat_refilled_q_add_one {s : State} (hi : s.Inv) (hp : s.phase = .squeeze) :
    (s.refilled.q + 1#8).toNat = s.refilled.q.toNat + 1 := by
  obtain ⟨hc, -, hq⟩ := (inv_squeeze_iff hp).1 hi
  have hlt := refillBlock_snd_lt (p := (s.S, s.q.toNat)) (blockBytes_bounds hc).1 hq
  rw [← refilled_pair] at hlt
  exact toNat_add_one_of_lt_blockBytes hc hlt

theorem answers_squeeze : Answers (Squeezing R p n) [.squeeze]
    [zext32 (byteAt (refillBlock R p).1 (refillBlock R p).2)]
    (Squeezing R ((refillBlock R p).1, (refillBlock R p).2 + 1)
      (n + if p.2 = R then 1 else 0)) := by
  refine Answers.single rfl fun s hi hs => ?_
  have hl : legalIn .squeeze s.phase = true := by simp [legalIn, hs.phase]
  obtain ⟨rfl, rfl, hp, rfl⟩ := hs
  rw [← refilled_pair]
  exact ⟨hl, rfl, blockBytes_congr s.refilled_rate, effect_permCount hi hl,
    s.refilled_phase.trans hp, congrArg (s.refilled.S, ·) (toNat_refilled_q_add_one hi hp)⟩

/-- The SQUEEZEs give the output out byte by byte, and permute before each block but the one at hand. -/
theorem answers_squeezeN (hR : 0 < R) (hp : p.2 ≤ R) (L : Nat) :
    Answers (Squeezing R p n) (squeezeN L) ((squeezeBytes R L p).map zext32)
      fun t => t.permCount = n + (p.2 + L - 1) / R := by
  induction L generalizing p n with
  | zero =>
    rw [Nat.div_eq_of_lt (by omega)]
    exact fun s hs h => ⟨s, rfl, hs, h.permCount⟩
  | succ L ih =>
    have hn : n + (p.2 + (L + 1) - 1) / R = (n + if p.2 = R then 1 else 0) +
        ((refillBlock R p).2 + 1 + L - 1) / R := by
      rw [refillBlock]
      split
      next h =>
        rw [h, show R + (L + 1) - 1 = R + L by omega, Nat.add_div_left _ hR,
          show 0 + 1 + L - 1 = L by omega]
        omega
      next => rw [Nat.add_right_comm p.2, Nat.add_assoc p.2]; rfl
    rw [hn]
    exact answers_squeeze.append (ih (refillBlock_snd_lt hR hp))

end Commands

/-! ### Whole hashes -/

/-- START and the ABSORBs of a message leave what SpongeRef's absorption loop leaves. -/
theorem answers_message {R n : Nat} {sfx : Byte} (hR : 0 < R) (M : List Byte) :
    Answers (Configured R sfx n) (.start :: absorbs M) (List.replicate (M.length + 1) 0#32)
      (Absorbing R sfx (M.foldl (absorbByte R) (zeroBytes, 0)) (n + M.length / R)) := by
  have h := answers_start.append (answers_absorbs (sfx := sfx) (n := n) (p := (zeroBytes, 0)) hR M)
  rwa [Nat.zero_add] at h

/-- Settles O47: ABSORB is one byte of SpongeRef's absorption loop, and its cursor counts modulo R. -/
theorem absorbingFollowsTheReference : Obligations.AbsorbingFollowsTheReference := by
  intro s M hs
  have hR : 0 < s.rate.toNat / 8 := (blockBytes_bounds ((inv_iff s).2 hs.1).configLegal).1
  obtain ⟨t, ht, htr, ha⟩ := answers_message hR M s hs ⟨rfl, rfl, rfl⟩
  refine ⟨_, t, ht, htr, fun r hr => ?_, ha.phase, ?_, ?_⟩
  · obtain ⟨d, hd, rfl⟩ := List.mem_map.1 hr
    rw [List.eq_of_mem_replicate hd]
  · rw [← Nat.zero_add M.length, ← foldl_absorbByte_snd (p := (zeroBytes, 0)) hR, ← ha.pair]
  · rw [ha.pair, refAbsorb_eq_foldl hR le_rfl]

/-- The blocks of an output after its first one, as R183 counts them. -/
theorem ceil_div_sub_one {R : Nat} (hR : 0 < R) (L : Nat) : (L + R - 1) / R - 1 = (L - 1) / R := by
  cases L with
  | zero => simp [Nat.div_eq_of_lt (Nat.sub_lt hR Nat.one_pos)]
  | succ L => simp [Nat.add_right_comm L 1 R, Nat.add_div_right L hR]

/-- A transaction that starts a hash with blocks of `r / 8` bytes, absorbs a message, and squeezes `L`
bytes outputs SpongeRef's bytes, and runs the permutations of R183. -/
theorem answers_transaction {P : State → Prop} {pre : List Instr} {ds : List Word} {r n : Nat}
    {sfx : Byte} (hpre : Answers P pre ds (Absorbing (r / 8) sfx (zeroBytes, 0) n))
    (hR : 0 < r / 8) (hR' : r / 8 ≤ 200) (c : Nat) (M : List Byte) (L : Nat) :
    Answers P (pre ++ absorbs M ++ [.final] ++ squeezeN L)
      (ds ++ List.replicate M.length 0#32 ++ [0#32] ++ (spongeRef r c M sfx L).map zext32)
      fun t => t.permCount = n + M.length / (r / 8) +
        1 + (if 0x80 ≤ sfx.toNat ∧ M.length % (r / 8) = r / 8 - 1 then 1 else 0) +
        ((L + r / 8 - 1) / (r / 8) - 1) := by
  have h := ((hpre.append (answers_absorbs hR M)).append answers_final).append
    (answers_squeezeN hR (Nat.zero_le _) L)
  rw [foldl_absorbByte_snd (p := (zeroBytes, 0)) hR] at h
  simpa only [spongeRef_eq hR hR', ceil_div_sub_one hR, Nat.zero_add] using h

/-- A legal rate is 1 to 200 bytes. -/
theorem rate_div_eight_bounds {rate cap : BitVec 11} (h : LegalConfig rate cap) :
    0 < rate.toNat / 8 ∧ rate.toNat / 8 ≤ 200 := by
  obtain ⟨h0, h8, hsum⟩ := h
  omega

/-- The hash transaction (R185). -/
theorem answers_hashCommands {rate cap : BitVec 11} (h : LegalConfig rate cap) (sfx : Byte)
    (M : List Byte) (L n : Nat) : ∃ ds,
      Answers (fun s => s.permCount = n) (hashCommands rate cap sfx M L)
        (ds ++ (spongeRef rate.toNat cap.toNat M sfx L).map zext32)
        fun t => t.permCount = n + M.length / (rate.toNat / 8) +
          1 + (if 0x80 ≤ sfx.toNat ∧ M.length % (rate.toNat / 8) = rate.toNat / 8 - 1 then 1 else 0) +
          ((L + rate.toNat / 8 - 1) / (rate.toNat / 8) - 1) :=
  have hR := rate_div_eight_bounds h
  ⟨_, answers_transaction (((answers_endHash.append (answers_cfgRc h)).append answers_cfgSfx).append
    answers_start) hR.1 hR.2 cap.toNat M L⟩

theorem length_spongeRef {r : Nat} (hR : 0 < r / 8) (hR' : r / 8 ≤ 200) (c : Nat) (M : List Byte)
    (sfx : Byte) (L : Nat) : (spongeRef r c M sfx L).length = L := by
  rw [spongeRef_eq hR hR', length_squeezeBytes]

/-- The last responses of a transaction carry its output. -/
theorem outputBytes_append (ds : List Word) (out : List Byte) :
    outputBytes out.length ((ds ++ out.map zext32).map (Response.mk .ok)) = out := by
  have hbyte (v : Byte) : (zext32 v).setWidth 8 = v :=
    (BitVec.setWidth_setWidth_of_le v (by decide)).trans v.setWidth_eq
  simp [outputBytes, Function.comp_def, hbyte]

/-- Commands that all answer OK and end with `out` in DATA output `out`. -/
theorem Answers.output {P Q : State → Prop} {is : List Instr} {ds : List Word} {out : List Byte}
    (h : Answers P is (ds ++ out.map zext32) Q) {s : State} (hs : Ready s) (hp : P s) :
    ∃ rs t, transactAll (is.map encode) s = some (rs, t) ∧ (∀ r ∈ rs, r.code = .ok) ∧
      outputBytes out.length rs = out := by
  obtain ⟨t, ht, -, -⟩ := h s hs hp
  refine ⟨_, t, ht, fun r hr => ?_, outputBytes_append ds out⟩
  obtain ⟨d, -, rfl⟩ := List.mem_map.1 hr
  rfl

/-- Settles O48: the SQUEEZEs of the hash transaction answer with SpongeRef's bytes. -/
theorem hashTransactionIsSpongeRef : Obligations.HashTransactionIsSpongeRef := by
  intro s rate cap sfx M L hs h
  obtain ⟨ds, hds⟩ := answers_hashCommands h sfx M L s.permCount
  have hR := rate_div_eight_bounds h
  have hout := hds.output hs rfl
  rwa [length_spongeRef hR.1 hR.2] at hout

/-- Settles O49: CFG_K256 sets up blocks of 136 bytes and the suffix 0x01. -/
theorem keccak256TransactionIsSpongeRef : Obligations.Keccak256TransactionIsSpongeRef := by
  intro s M hs
  have h := answers_transaction (n := s.permCount)
    ((answers_endHash.append answers_cfgK256).append answers_start) (by decide) (by decide) 512 M 32
  have hout := h.output hs rfl
  rwa [length_spongeRef (by decide) (by decide)] at hout

/-- Settles O51: ABSORB permutes for each full block, FINAL once or twice, and the SQUEEZEs before each
block of the output but the first. -/
theorem permutationsPerHash : Obligations.PermutationsPerHash := by
  intro s rate cap sfx M L hs h
  obtain ⟨ds, hds⟩ := answers_hashCommands h sfx M L s.permCount
  obtain ⟨t, ht, -, hn⟩ := hds s hs rfl
  exact ⟨_, t, ht, hn⟩

end Sys2Proof.Machine

/-! PROOFS. The statements of spec/60_exceptions.md, and that of the edge at which an engine waits: the
error a word ends with, what an error writes, and the sticky ERRF. -/

namespace Sys2Proof.Machine

/-! ### The waiting engine -/

/-- Settles O14: with no command offered and no response in flight, neither port transfers. -/
theorem waitingEngineKeepsItsState : Obligations.WaitingEngineKeepsItsState := by
  intro s hs hr hrst hv
  have hcmd : s.cmdTransfers s.pins = false := by simp [State.cmdTransfers, hv]
  have hrsp : s.rspTransfers s.pins = false := by simp [State.rspTransfers, State.rspValid, hr]
  have hquiet : step s = quietEdge s := by simp [step, hrst, hcmd]
  rw [hquiet, quietEdge, guardInv_of_inv ((inv_iff s).2 hs), hrsp]
  rfl

/-! ### The error a word ends with

`commandError` and `wordError` give the error from the command or the word and the phase alone (R233):
the phase check goes before the operands, and the decoder before both. -/

/-- The error a decoded command ends with in a phase, if any. -/
def commandError (i : Instr) (p : Phase) : Option ErrCode :=
  if legalIn i p then operandError i else some .seq

/-- The error a word ends with in a phase, if any. -/
def wordError (w : Word) (p : Phase) : Option ErrCode :=
  match decode w with
  | .ok i => commandError i p
  | .error _ => some .illegal

theorem commandError_of_legal {i : Instr} {p : Phase} (h : legalIn i p = true) :
    commandError i p = operandError i :=
  if_pos h

theorem commandError_of_not_legal {i : Instr} {p : Phase} (h : legalIn i p = false) :
    commandError i p = some .seq :=
  if_neg (Bool.eq_false_iff.1 h)

theorem wordError_of_decode_eq_ok {w : Word} {i : Instr} (h : decode w = .ok i) (p : Phase) :
    wordError w p = commandError i p := by
  rw [wordError, h]

theorem wordError_of_decode_eq_error {w : Word} {e : Illegal} (h : decode w = .error e) (p : Phase) :
    wordError w p = some .illegal := by
  rw [wordError, h]

/-- No operands make a command fail with the code OK. -/
theorem operandError_ne_ok (i : Instr) : operandError i ≠ some .ok := by
  cases i with
  | cfgRc rate cap => simp [operandError]
  | status sel => simp [operandError]
  | _ => exact nofun

theorem commandError_ne_ok (i : Instr) (p : Phase) : commandError i p ≠ some .ok := by
  cases hl : legalIn i p with
  | true => exact commandError_of_legal hl ▸ operandError_ne_ok i
  | false => simp [commandError_of_not_legal hl]

theorem wordError_ne_ok (w : Word) (p : Phase) : wordError w p ≠ some .ok := by
  cases hd : decode w with
  | ok i => exact wordError_of_decode_eq_ok hd p ▸ commandError_ne_ok i p
  | error e => simp [wordError_of_decode_eq_error hd]

/-- Everything a command can do when it answers a next state, with the error that decides it. -/
theorem exec_next_commandError {i : Instr} {s t : State} (h : exec i s = .next t) :
    (commandError i s.phase = none ∧ t = (effect i s).offer .ok (answerData i s)) ∨
      ∃ c, commandError i s.phase = some c ∧ t = (s.recordError c).offer c 0#32 := by
  obtain ⟨-, ⟨hl, hb⟩ | ⟨hl, hf⟩⟩ := exec_next h
  · rw [commandError_of_legal hl]
    rw [execBody_eq] at hb
    cases ho : operandError i <;> rw [ho] at hb <;> cases hb
    · exact .inl ⟨rfl, rfl⟩
    · exact .inr ⟨_, rfl, rfl⟩
  · cases hf
    exact .inr ⟨_, commandError_of_not_legal hl, rfl⟩

/-- Everything an accepted word can do when it answers a next state, with the error that decides it. -/
theorem execute_next_wordError {w : Word} {s t : State} (h : execute w s = .next t) :
    (∃ i, decode w = .ok i ∧ wordError w s.phase = none ∧
        t = (effect i s).offer .ok (answerData i s)) ∨
      ∃ c, wordError w s.phase = some c ∧ t = (s.recordError c).offer c 0#32 := by
  obtain ⟨-, ⟨i, hd, hx⟩ | ⟨e, hd, hf⟩⟩ := execute_next h
  · rw [wordError_of_decode_eq_ok hd]
    obtain ⟨hn, ht⟩ | herr := exec_next_commandError hx
    · exact .inl ⟨i, hd, hn, ht⟩
    · exact .inr herr
  · cases hf
    exact .inr ⟨_, wordError_of_decode_eq_error hd _, rfl⟩

/-- RCODE of a command's response is its error, or OK where it has none. -/
theorem exec_code {i : Instr} {s t : State} {r : Response} (h : exec i s = .next t)
    (hr : t.response = some r) : r.code = (commandError i s.phase).getD .ok := by
  obtain ⟨hn, rfl⟩ | ⟨c, hc, rfl⟩ := exec_next_commandError h <;> cases hr
  · rw [hn]; rfl
  · rw [hc]; rfl

section Response
variable {w : Word} {s t : State} {r : Response} (h : execute w s = .next t)
  (hr : t.response = some r)
include h hr

/-- RCODE of a word's response is its error, or OK where it has none. -/
theorem execute_code : r.code = (wordError w s.phase).getD .ok := by
  obtain ⟨i, -, hn, rfl⟩ | ⟨c, hc, rfl⟩ := execute_next_wordError h <;> cases hr
  · rw [hn]; rfl
  · rw [hc]; rfl

/-- A response that is not OK comes with DATA = 0 and with no write but ERRF's (R234, R235). -/
theorem execute_of_code_ne_ok (hc : r.code ≠ .ok) :
    r.data = 0#32 ∧ t = (s.recordError r.code).offer r.code 0#32 := by
  obtain ⟨i, -, rfl⟩ | ⟨c, rfl⟩ := execute_next_cases h
  · cases hr
    exact absurd rfl hc
  · cases hr
    exact ⟨rfl, rfl⟩

/-- A response that is OK comes from a command that completes. -/
theorem execute_of_code_eq_ok (hc : r.code = .ok) :
    ∃ i, decode w = .ok i ∧ t = (effect i s).offer .ok (answerData i s) := by
  obtain ⟨i, hd, -, ht⟩ | ⟨c, he, rfl⟩ := execute_next_wordError h
  · exact ⟨i, hd, ht⟩
  · cases hr
    exact absurd (hc ▸ he) (wordError_ne_ok w s.phase)

end Response

/-! ### Priority, and what an error writes -/

/-- Settles O17: a reserved word fails before its command is known; past the decoder the two errors of
CFG_RC are those of `cfgRcSetsALegalConfiguration`. -/
theorem errorPriority : Obligations.ErrorPriority := by
  intro w s hs
  obtain ⟨-, hcfg, hseq, -⟩ := cfgRcSetsALegalConfiguration s hs
  refine ⟨execute_of_reservedWord ((inv_iff s).2 hs), fun rate cap hd => ?_⟩
  rw [execute_of_decode_eq_ok hd]
  exact ⟨hseq rate cap, hcfg rate cap⟩

/-- Settles O18: an error is `recordError` and the response offered. -/
theorem errorsWriteOnlyErrf : Obligations.ErrorsWriteOnlyErrf := by
  intro w s t r h hr hc
  obtain ⟨hdata, ht⟩ := execute_of_code_ne_ok h hr hc
  exact ⟨hdata, _, ht.trans (by rw [State.recordError_eq]; rfl)⟩

/-! ### The sticky ERRF -/

section Errf
variable (s : State)

@[simp] theorem State.absorbed_errf (d : Byte) : (s.absorbed d).errf = s.errf := by
  simp only [State.absorbed]; split <;> rfl

@[simp] theorem State.suffixed_errf : s.suffixed.errf = s.errf := by
  simp only [State.suffixed]; split <;> rfl

@[simp] theorem State.refilled_errf : s.refilled.errf = s.errf := by
  simp only [State.refilled]; split <;> rfl

/-- Of the commands that complete, CLRERR alone writes ERRF. -/
theorem effect_errf {i : Instr} (h : i ≠ .clrErr) : (effect i s).errf = s.errf := by
  cases i with
  | clrErr => exact absurd rfl h
  | _ => simp [effect]

end Errf

/-- Neither the invariants nor the error of a word reads ERRF, so its response has the same RCODE
whatever ERRF holds. -/
theorem exists_execute_withErrf {w : Word} {s t : State} {r : Response} (h : execute w s = .next t)
    (hr : t.response = some r) (e : ErrCode) :
    ∃ t' r', execute w { s with errf := e } = .next t' ∧ t'.response = some r' ∧ r'.code = r.code := by
  have hi : State.Inv { s with errf := e } := (execute_next h).1
  obtain ⟨t', ht'⟩ := exists_execute_eq_next hi w
  obtain ⟨-, r', hr'⟩ := execute_frame ht'
  exact ⟨t', r', ht', hr', (execute_code ht' hr').trans (execute_code h hr).symm⟩

/-- Settles O19: an error goes through `recordError`, a success leaves its command's `effect`, and reset
writes ERRF's reset value. -/
theorem firstErrorIsSticky : Obligations.FirstErrorIsSticky := by
  refine ⟨fun w s t r h hr => ?_, fun s t hrst h => ?_⟩
  · have herr (hc : r.code ≠ .ok) : t.errf = if s.errf = .ok then r.code else s.errf := by
      obtain ⟨-, ht⟩ := execute_of_code_ne_ok h hr hc
      rw [ht, State.offer_errf, State.recordError_errf]
    refine ⟨fun hc he => (herr hc).trans (if_pos he), fun hc he => (herr hc).trans (if_neg he),
      fun hc hd => ?_, fun hc hd => ?_, exists_execute_withErrf h hr⟩
    · obtain ⟨i, hi, rfl⟩ := execute_of_code_eq_ok h hr hc
      exact effect_errf s fun hclr => hd (hclr ▸ hi)
    · obtain ⟨i, hi, rfl⟩ := execute_of_code_eq_ok h hr hc
      cases hi.symm.trans hd
      rfl
  · rw [step, if_pos hrst] at h
    cases h
    rfl

/-! ### The errors of each command -/

/-- A command that no operands make fail ends OK or, outside its phases, with SEQ. -/
theorem exec_code_eq_ok_or_seq {i : Instr} {s t : State} {r : Response} (ho : operandError i = none)
    (h : exec i s = .next t) (hr : t.response = some r) : r.code = .ok ∨ r.code = .seq := by
  rw [exec_code h hr]
  cases hl : legalIn i s.phase with
  | true => rw [commandError_of_legal hl, ho]; exact .inl rfl
  | false => rw [commandError_of_not_legal hl]; exact .inr rfl

/-- CFG_RC ends OK, outside IDLE with SEQ, or with CFG for a malformed configuration. -/
theorem exec_cfgRc_code {rate cap : BitVec 11} {s t : State} {r : Response}
    (h : exec (.cfgRc rate cap) s = .next t) (hr : t.response = some r) :
    r.code = .ok ∨ r.code = .seq ∨ r.code = .cfg := by
  rw [exec_code h hr, commandError, operandError]
  split
  · split
    · exact .inl rfl
    · exact .inr (.inr rfl)
  · exact .inr (.inl rfl)

/-- Settles O20: a command legal in every phase has no error but its operands', and of the well-formed
commands CFG_RC alone has one. -/
theorem errorsByCommand : Obligations.ErrorsByCommand := by
  intro i s t r hwf h hr
  cases i with
  | nop | start | endHash | clrErr => exact exec_code h hr
  | status sel =>
    have ho : operandError (.status sel) = none := if_neg (wellFormed_status_iff.1 hwf)
    exact (exec_code h hr).trans (by rw [commandError_of_legal rfl, ho]; rfl)
  | cfgSfx | cfgK256 | absorb | final | squeeze => exact exec_code_eq_ok_or_seq rfl h hr
  | cfgRc rate cap => exact exec_cfgRc_code h hr

end Sys2Proof.Machine

/-! PROOFS. The statements of spec/70_reset_and_hazards.md: reset from any state, the engine whose response
waits to be taken, and the hash that needs no set-up after reset. -/

namespace Sys2Proof.Machine

/-! ### Reset -/

/-- Reset wins over both ports, whatever the state (R260). -/
theorem step_of_rst {s : State} (h : s.pins.rst = true) : step s = .next s.resetEdge := if_pos h

/-- Settles O7: the step is the reset edge, which keeps nothing of the engine's state. -/
theorem resetFromAnyState : Obligations.ResetFromAnyState := fun s h =>
  ⟨s.resetEdge, step_of_rst h, rfl, rfl, rfl, rfl, rfl, rfl, rfl, rfl, rfl, rfl⟩

/-! ### The busy engine -/

section Busy
variable {s : State} {r : Response} (hr : s.response = some r)
include hr

/-- A command in flight holds `cmd_ready` low (R265). -/
theorem State.cmdReady_of_response (p : HostPins) : s.cmdReady p = false := by
  simp [State.cmdReady, hr]

/-- The response in flight is offered at every edge but reset (R266). -/
theorem State.rspValid_of_response {p : HostPins} (hrst : p.rst = false) : s.rspValid p = true := by
  simp [State.rspValid, hr, hrst]

/-- With a command in flight, an edge without reset is quiet, whatever word the host presents (R265). -/
theorem step_of_response (hrst : s.pins.rst = false) : step s = quietEdge s := by
  simp [step, hrst, State.cmdTransfers, State.cmdReady_of_response hr]

/-- A quiet edge takes the response from a host that is ready for it, and else holds it (R266). -/
theorem quietEdge_of_response (hi : s.Inv) (hrst : s.pins.rst = false) :
    quietEdge s = .next { s with
      host := s.host.tail
      response := if s.pins.rspReady then none else some r } := by
  have hready : s.rspTransfers s.pins = s.pins.rspReady := by
    rw [State.rspTransfers, State.rspValid_of_response hr hrst, Bool.and_true]
  rw [quietEdge, guardInv_of_inv hi, hready]
  split
  · rfl
  · rw [State.passEdge, hr]

end Busy

/-- Settles O13: a command in flight holds `cmd_ready` low, so the edge is a quiet one. -/
theorem busyEngineTakesNoWord : Obligations.BusyEngineTakesNoWord := by
  intro s r hs hr hrst
  refine ⟨State.cmdReady_of_response hr _, ?_, ?_⟩
  · rw [State.rspPort, State.rspValid_of_response hr hrst, if_pos rfl, hr]
  · rw [step_of_response hr hrst, quietEdge_of_response hr ((inv_iff s).2 hs) hrst]

/-! ### A hash from reset -/

theorem reset_ready : Ready State.reset := ⟨resetMeetsTheInvariants, rfl⟩

/-- Reset leaves the Keccak-256 profile in place: blocks of 136 bytes and the suffix 0x01 (R263). -/
theorem reset_configured : Configured (1088 / 8) 0x01#8 0 State.reset := ⟨rfl, rfl, rfl⟩

/-- Settles O50: START needs only a configuration, and reset leaves that of the profile. -/
theorem resetIsReadyForKeccak256 : Obligations.ResetIsReadyForKeccak256 := by
  intro M
  have h := answers_transaction (answers_start (R := 1088 / 8) (sfx := 0x01#8) (n := 0))
    (by decide) (by decide) 512 M 32
  have hout := h.output reset_ready reset_configured
  rw [length_spongeRef (by decide) (by decide)] at hout
  simpa only [List.append_assoc, List.singleton_append] using hout

end Sys2Proof.Machine
